-- ==== Sys2Proof/Word.lean ====
section
/-! DEFINITION. The bit-level types of the ITL display core (`00_scope.md` R9, `30_encoding.md` R50, R51, R58).
Coordinates, the cursor and their sums are integers in every rule (R9), so they are `Int` in the model and no word type
stands for them here. -/

namespace Sys2Proof

/-- A byte: 8 bits, bit 0 the least significant (R9). -/
abbrev Byte := BitVec 8

/-- The host command word `CW`, `CW_W` = 48 bits (R50). -/
abbrev CmdWord := BitVec 48

/-- A 7-bit device address of the two-wire bus (R58, R95). -/
abbrev BusAddr := BitVec 7

end Sys2Proof
end

