-- ==== Sys2Proof/Config.lean ====
section
/-! DEFINITION. What an instance of the block fixes: the constants of `00_scope.md` R7, the parameter record `Cfg` of
R8 with the defaults the spec decides, and the values nobody fixes (opaque constants without a body).

`Cfg` is an INPUT of the step relation (`10_state.md` R19). It is carried in `State` (field `cfg`), which no step ever
changes (`70_reset_and_hazards.md` R155), so that a statement over every state is a statement over every `Cfg`. -/

namespace Sys2Proof

/-! ## Constants the source fixes (R7) -/

namespace Config

/-- `WIDTH`: pixels per row and bytes per page. -/
abbrev width : Nat := 128
/-- `HEIGHT`: pixel rows. -/
abbrev height : Nat := 64
/-- `PAGES` = `HEIGHT/8`. -/
abbrev pages : Nat := 8
/-- `FB_BYTES` = `WIDTH × HEIGHT / 8`. -/
abbrev fbBytes : Nat := 1024
/-- `N_PIXELS`: pixels in the framebuffer. -/
abbrev nPixels : Nat := 8192
/-- `GLYPH_FIRST`: first code point with a glyph. -/
abbrev glyphFirst : Nat := 32
/-- `GLYPH_LAST`: last code point with a glyph, inclusive. -/
abbrev glyphLast : Nat := 126
/-- `N_GLYPHS` = `GLYPH_LAST − GLYPH_FIRST + 1`. -/
abbrev nGlyphs : Nat := 95
/-- `GLYPH_COLS`: bytes per glyph, one per column. -/
abbrev glyphCols : Nat := 5
/-- `GLYPH_ROWS`: rows read by the rasterizer per column (`90_conflicts.md` C4). -/
abbrev glyphRows : Nat := 8
/-- `N_GLYPHS × GLYPH_COLS`. -/
abbrev romBytes : Nat := 475
/-- `CHAR_ADVANCE`: cursor advance per character. -/
abbrev charAdvance : Nat := 6
/-- `DEV_ADDR`: the display controller's bus address. -/
abbrev devAddr : BusAddr := 0x3C#7
/-- `CTRL_CMD`: the control byte that opens a command transaction. -/
abbrev ctrlCmd : Byte := 0x00#8
/-- `CTRL_DATA`: the control byte that opens a data transaction. -/
abbrev ctrlData : Byte := 0x40#8
/-- `COORD_W`, decided by D3: the width of the coordinate fields of R51 and R53. -/
abbrev coordW : Nat := 16
/-- `CW_W`, decided by D1: the width of the command word of R50 and R51. -/
abbrev cwW : Nat := 48

end Config

/-- One value of `FAULT_INFO`, the opaque information a bus fault carries (R8, D8), by its number within that type. The
model never looks inside one. DESIGN CHOICE, safe: log entry 7. -/
abbrev FaultInfo := Nat

/-- The type `FAULT_INFO` itself (R8: "any"): how many values it has. -/
inductive FaultType
  /-- values 0 to `n − 1` -/
  | finite (n : Nat)
  /-- every number is a value -/
  | infinite
deriving DecidableEq, Repr, Inhabited

/-- `e : FAULT_INFO`. -/
abbrev FaultType.has (t : FaultType) (e : FaultInfo) : Prop :=
  match t with
  | .finite n => e < n
  | .infinite => True

/-- The parameter record `Cfg` (R8), every row of its table. -/
structure Cfg where
  /-- `COORD_W`; decided (D3), so well-formedness fixes it -/
  coordW    : Nat
  /-- `CW_W`; decided (D1), so well-formedness fixes it -/
  cwW       : Nat
  /-- `GLYPH`, stored linearly: byte `(c − 32)·5 + i` is column `i` of code point `c` (R80). -/
  glyph     : Vector Byte 475
  /-- `INIT_SEQ`, one byte per command transaction of INIT (R98, R101). -/
  initSeq   : List Byte
  /-- `PAGE_BASE`, the "page base opcode" (R59). -/
  pageBase  : Byte
  /-- `COL_LOW` (R59). -/
  colLow    : Byte
  /-- `COL_HIGH` (R59). -/
  colHigh   : Byte
  /-- `T_SETTLE`, the settling delay in an unstated unit (R102, D16). No rule depends on it and nothing reads it. -/
  tSettle   : Nat
  /-- `FB_RESET`, the framebuffer contents after reset (R11, D10). -/
  fbReset   : Vector Byte 1024
  /-- `FAULT_INFO`, the type of the value a bus fault carries (D8). -/
  faultInfo : FaultType
deriving DecidableEq, Repr

/-- Well-formedness of `Cfg` (R8, R58): "`PAGE_BASE + 7 ≤ 255`", so that "page base opcode + page index" is a byte; and the
two widths as decided (D1, D3). -/
abbrev Cfg.wf (c : Cfg) : Prop :=
  c.pageBase.toNat + 7 ≤ 255 ∧ c.coordW = Config.coordW ∧ c.cwW = Config.cwW

namespace Config

/-! ## Free values: no body, nothing constrains them -/

/-- The glyph ROM's contents: OPEN (D15, U2, N1). -/
opaque glyphRom : Vector Byte 475

/-- The framebuffer's contents after reset: OPEN, any 1024 bytes (D10, U1). -/
opaque fbReset : Vector Byte 1024

/-- The duration of the settling delay: OPEN (D16, U4). -/
opaque tSettle : Nat

/-- The type of fault information: OPEN (D8, U5). -/
opaque faultInfo : FaultType

/-- Whether controller bytes other than the defaults realise the sixteen settings in order (R100) and the page and column
commands (R59): "A model cannot check these without the controller's command set". Log entry 12. -/
opaque otherFaithful (initSeq : List Byte) (pageBase colLow colHigh : Byte) : Bool

/-! ## Defaults (R59, R101): general knowledge of a controller family, not in the source (GK2). PRESUMED, log entry 6 -/

/-- The default `INIT_SEQ` of R101. -/
def initSeqDefault : List Byte :=
  [0xAE, 0x20, 0x02, 0xB0, 0x00, 0x10, 0xC8, 0xA1, 0x81] ++
  [0xCF, 0xA6, 0xA8, 0x3F, 0xA4, 0xD3, 0x00, 0xD5, 0x80] ++
  [0xD9, 0xF1, 0xDA, 0x12, 0xDB, 0x40, 0x8D, 0x14, 0xAF]

/-- The default parameter record: the decided values, the spec's default bytes, and free values where it gives none. -/
def defaultCfg : Cfg where
  coordW    := coordW
  cwW       := cwW
  glyph     := glyphRom
  initSeq   := initSeqDefault
  pageBase  := 0xB0
  colLow    := 0x00
  colHigh   := 0x10
  tSettle   := tSettle
  fbReset   := fbReset
  faultInfo := faultInfo

end Config

/-! ## The block's working storage between commands -/

/-- The six commands, as the sequencer's latch `op` names them (`10_state.md` R13: "`op` 0 to 5"). -/
inductive CmdOp
  | init | clear | update | drawPixel | drawChar | drawString
deriving DecidableEq, Repr, Inhabited

/-- The working registers of R13: the operand latches and the loop counters. A loop counter that the sequencer position
carries (R14, `Machine.Seq`) is that argument of the position while it is carried, and rests here otherwise
(`Machine.State.counterGi` and its like read it; log entry 11). -/
structure Latches where
  /-- the command being executed -/
  op  : CmdOp
  /-- horizontal origin operand -/
  ox  : Int
  /-- vertical origin operand -/
  oy  : Int
  /-- character code; the current character of DRAW_STRING -/
  oc  : Byte
  /-- color operand -/
  oon : Bool
  /-- cursor of DRAW_STRING, an integer that does not wrap -/
  cur : Int
  /-- glyph column index, at rest -/
  gi  : Fin 5
  /-- glyph row index, at rest -/
  gj  : Fin 8
  /-- page index, at rest -/
  pg  : Fin 8
  /-- byte index within the page slice being sent -/
  col : Fin 128
  /-- byte index being cleared, at rest -/
  ci  : Fin 1024
  /-- index of the next entry of `INIT_SEQ`, at rest -/
  is  : Nat
deriving DecidableEq, Repr, Inhabited

/-- What the working registers hold after the `n`-th completion: "any value", "never read before written; not observable"
(U17). A free value, log entry 10. -/
opaque Config.freeLatches : Nat → Latches

/-! ## The controller's registers outside the block (R17, R21, R22) -/

/-- The controller registers UPDATE writes, and `PANEL`. -/
structure ControllerRegs where
  /-- the page pointer (R21) -/
  pagePtr : Fin 8
  /-- the low half of the column pointer (R17, R21) -/
  colLow  : BitVec 4
  /-- the high half of the column pointer -/
  colHigh : BitVec 4
  /-- the display memory `PANEL` (R22): 8 pages of 128 bytes, 1024 in all -/
  panel   : Vector (Vector Byte 128) 8
deriving DecidableEq, Repr, Inhabited

/-- What the controller's registers hold where nothing is said of them: "unspecified" (R23), "any value" (U11 to U13). The
`n`-th free value drawn; log entry 14. -/
opaque Config.freeController : Nat → ControllerRegs

end Sys2Proof
end

