-- ==== Sys2Proof/Syntax.lean ====
section
/-! DEFINITION. The instructions: one constructor per row of spec/opcode_table.json (44 rows).

* Host side, format `CMD`: the six commands (`30_encoding.md` R52) with the operands they use (R53, R54), and the six
  families of illegal words (R55), which carry nothing because an illegal word's other fields have no effect (R122).
* Bus side, formats `BUS_CMD` and `BUS_DATA`: the two write transactions (R58, R96, R97).
* Controller side, format `CTL_BYTE`: the command bytes that INIT and UPDATE send, each identified by its POSITION in the
  sequence and not by its value (R101, R104). -/

namespace Sys2Proof

/-- The instructions of the block. Coordinates are integers (R53: `sext_16` of their fields). -/
inductive Instr
  /-- INIT (R99) -/
  | init
  /-- CLEAR (R71) -/
  | clear
  /-- UPDATE, alias REFRESH (R104) -/
  | update
  /-- DRAW_PIXEL `x, y, on`, alias SET_PIXEL (R72) -/
  | drawPixel (x y : Int) (on : Bool)
  /-- DRAW_CHAR `x, y, c, on` (R84) -/
  | drawChar (x y : Int) (c : Byte) (on : Bool)
  /-- DRAW_STRING `x, y, on`, its text on the text port (R88) -/
  | drawString (x y : Int) (on : Bool)
  /-- illegal: `op` = 0b110 (R55) -/
  | reservedOp6
  /-- illegal: `op` = 0b111 (R55) -/
  | reservedOp7
  /-- illegal: bit 7 is the highest set bit of `rsv` (R55) -/
  | reservedRsv7
  /-- illegal: bit 6 is the highest set bit of `rsv` (R55) -/
  | reservedRsv6
  /-- illegal: bit 5 is the highest set bit of `rsv` (R55) -/
  | reservedRsv5
  /-- illegal: bit 4 is the highest set bit of `rsv` (R55) -/
  | reservedRsv4
  /-- BUS_CMD: the command transaction `[0x00, b]` (R96) -/
  | busCmd (b : Byte)
  /-- BUS_DATA: the data transaction `[0x40] ++ d` (R97) -/
  | busData (d : List Byte)
  /-- CTL_PAGE_SELECT: "page base opcode + page index" (R104 a) -/
  | ctlPageSelect (pg : Fin 8)
  /-- CTL_COL_LOW: column low nibble 0 (R104 b) -/
  | ctlColLow
  /-- CTL_COL_HIGH: column high nibble 0 (R104 b) -/
  | ctlColHigh
  /-- INIT_SEQ[0] = 0xAE: setting 1, display off: opcode (R101) -/
  | initSeq00
  /-- INIT_SEQ[1] = 0x20: setting 2, set addressing mode: opcode (R101) -/
  | initSeq01
  /-- INIT_SEQ[2] = 0x02: setting 2: operand, page addressing (R101) -/
  | initSeq02
  /-- INIT_SEQ[3] = 0xB0: setting 3, page start address: opcode (R101) -/
  | initSeq03
  /-- INIT_SEQ[4] = 0x00: setting 3, column start low nibble: opcode (R101) -/
  | initSeq04
  /-- INIT_SEQ[5] = 0x10: setting 3, column start high nibble: opcode (R101) -/
  | initSeq05
  /-- INIT_SEQ[6] = 0xC8: setting 4, COM output scan direction: opcode (R101) -/
  | initSeq06
  /-- INIT_SEQ[7] = 0xA1: setting 5, segment remap: opcode (R101) -/
  | initSeq07
  /-- INIT_SEQ[8] = 0x81: setting 6, set contrast: opcode (R101) -/
  | initSeq08
  /-- INIT_SEQ[9] = 0xCF: setting 6: operand (R101) -/
  | initSeq09
  /-- INIT_SEQ[10] = 0xA6: setting 7, normal display: opcode (R101) -/
  | initSeq10
  /-- INIT_SEQ[11] = 0xA8: setting 8, set multiplex ratio: opcode (R101) -/
  | initSeq11
  /-- INIT_SEQ[12] = 0x3F: setting 8: operand, 64 rows (R101) -/
  | initSeq12
  /-- INIT_SEQ[13] = 0xA4: setting 9, output follows RAM: opcode (R101) -/
  | initSeq13
  /-- INIT_SEQ[14] = 0xD3: setting 10, set display offset: opcode (R101) -/
  | initSeq14
  /-- INIT_SEQ[15] = 0x00: setting 10: operand, zero (R101) -/
  | initSeq15
  /-- INIT_SEQ[16] = 0xD5: setting 11, set clock divide ratio: opcode (R101) -/
  | initSeq16
  /-- INIT_SEQ[17] = 0x80: setting 11: operand (R101) -/
  | initSeq17
  /-- INIT_SEQ[18] = 0xD9: setting 12, set pre-charge period: opcode (R101) -/
  | initSeq18
  /-- INIT_SEQ[19] = 0xF1: setting 12: operand (R101) -/
  | initSeq19
  /-- INIT_SEQ[20] = 0xDA: setting 13, set COM pin configuration: opcode (R101) -/
  | initSeq20
  /-- INIT_SEQ[21] = 0x12: setting 13: operand (R101) -/
  | initSeq21
  /-- INIT_SEQ[22] = 0xDB: setting 14, set VCOMH deselect level: opcode (R101) -/
  | initSeq22
  /-- INIT_SEQ[23] = 0x40: setting 14: operand (R101) -/
  | initSeq23
  /-- INIT_SEQ[24] = 0x8D: setting 15, charge pump setting: opcode (R101) -/
  | initSeq24
  /-- INIT_SEQ[25] = 0x14: setting 15: operand, enabled (R101) -/
  | initSeq25
  /-- INIT_SEQ[26] = 0xAF: setting 16, display on: opcode (R101) -/
  | initSeq26
deriving DecidableEq, Repr

/-! ## The positions of a controller command byte -/

/-- Where a controller command byte stands: entry `k` of `INIT_SEQ` (R99), or one of the three commands UPDATE sends
before a page's data (R104). -/
inductive CtlPos
  | initEntry (k : Nat)
  | pageSelect (pg : Fin 8)
  | colLow
  | colHigh
deriving DecidableEq, Repr

/-- The `INIT_SEQ` rows of the table, in the order of R101. -/
def initSeqInstrs : List Instr :=
  [.initSeq00, .initSeq01, .initSeq02, .initSeq03, .initSeq04, .initSeq05, .initSeq06, .initSeq07, .initSeq08] ++
  [.initSeq09, .initSeq10, .initSeq11, .initSeq12, .initSeq13, .initSeq14, .initSeq15, .initSeq16, .initSeq17] ++
  [.initSeq18, .initSeq19, .initSeq20, .initSeq21, .initSeq22, .initSeq23, .initSeq24, .initSeq25, .initSeq26]

/-! ## The sixteen settings of the controller (`10_state.md` R17, R98) -/

/-- The controller settings INIT makes, in the order of R17. -/
inductive Setting
  | displayOff | addressingMode | startAddresses | comScanDirection | segmentRemap | contrast | normalDisplay
  | multiplexRatio | outputFollowsRam | displayOffset | clockDivide | preCharge | comPins | vcomhLevel | chargePump
  | displayOn
deriving DecidableEq, Repr

/-- The setting that each entry of the default `INIT_SEQ` belongs to (R101, column "setting"). -/
def initSeqSettings : List Setting :=
  [.displayOff, .addressingMode, .addressingMode, .startAddresses, .startAddresses, .startAddresses] ++
  [.comScanDirection, .segmentRemap, .contrast, .contrast, .normalDisplay, .multiplexRatio, .multiplexRatio] ++
  [.outputFollowsRam, .displayOffset, .displayOffset, .clockDivide, .clockDivide, .preCharge, .preCharge] ++
  [.comPins, .comPins, .vcomhLevel, .vcomhLevel, .chargePump, .chargePump, .displayOn]

end Sys2Proof
end

