-- ==== Sys2Proof/WellFormed.lean ====
section
/-! DEFINITION. Which instructions the formats can express: coordinates that fit the signed `COORD_W` = 16-bit fields
(`30_encoding.md` R51, R53, D3) and a data transaction of exactly 128 data bytes (R58, R97, `90_conflicts.md` C5). -/

namespace Sys2Proof

/-- A coordinate operand: −32768 to 32767 (R53). -/
def coordOk (v : Int) : Bool := decide (-32768 ≤ v) && decide (v ≤ 32767)

/-- The instruction has an encoding (R51, R53, R58). -/
def Instr.wellFormed : Instr → Bool
  | .init => true
  | .clear => true
  | .update => true
  | .drawPixel x y _ => coordOk x && coordOk y
  | .drawChar x y _ _ => coordOk x && coordOk y
  | .drawString x y _ => coordOk x && coordOk y
  | .reservedOp6 => true
  | .reservedOp7 => true
  | .reservedRsv7 => true
  | .reservedRsv6 => true
  | .reservedRsv5 => true
  | .reservedRsv4 => true
  | .busCmd _ => true
  | .busData d => d.length == 128
  | .ctlPageSelect _ => true
  | .ctlColLow => true
  | .ctlColHigh => true
  | .initSeq00 => true
  | .initSeq01 => true
  | .initSeq02 => true
  | .initSeq03 => true
  | .initSeq04 => true
  | .initSeq05 => true
  | .initSeq06 => true
  | .initSeq07 => true
  | .initSeq08 => true
  | .initSeq09 => true
  | .initSeq10 => true
  | .initSeq11 => true
  | .initSeq12 => true
  | .initSeq13 => true
  | .initSeq14 => true
  | .initSeq15 => true
  | .initSeq16 => true
  | .initSeq17 => true
  | .initSeq18 => true
  | .initSeq19 => true
  | .initSeq20 => true
  | .initSeq21 => true
  | .initSeq22 => true
  | .initSeq23 => true
  | .initSeq24 => true
  | .initSeq25 => true
  | .initSeq26 => true

/-- `WellFormed i`: some word of the spec's formats encodes `i`. -/
abbrev WellFormed (i : Instr) : Prop := i.wellFormed = true

end Sys2Proof
end

