-- ==== Sys2Proof/Decode.lean ====
section
/-! DEFINITION. Decoding and encoding (`30_encoding.md`). Three formats carry instructions: the 48-bit command word of the
host (R50 to R55), the payload of a bus write transaction (R58), and a controller command byte together with its position
(R101, R104: "identified by its position in the INIT or UPDATE sequence, not by its value"). -/

namespace Sys2Proof

/-- A word of one of the three formats. -/
inductive Code
  /-- format `CMD`: the host command word -/
  | cmd (w : CmdWord)
  /-- formats `BUS_CMD` and `BUS_DATA`: a transaction's payload, in the order it is sent -/
  | bus (payload : List Byte)
  /-- format `CTL_BYTE`: a controller command byte and where it stands -/
  | ctl (pos : CtlPos) (b : Byte)
deriving DecidableEq, Repr

/-- Why a word is no instruction. The 48-bit format has no such word: R55 gives every one a meaning. -/
inductive DecodeError
  /-- a payload without a control byte -/
  | emptyPayload
  /-- a control byte other than `0x00` and `0x40` (R58) -/
  | unknownControlByte
  /-- a payload whose length is not its kind's: 2 or 129 (R58) -/
  | wrongLength
  /-- a controller byte that is not the table's byte for its position (R59, R101) -/
  | notTheRowsByte
  /-- an entry of `INIT_SEQ` past the table's 27 rows -/
  | noSuchRow
deriving DecidableEq, Repr

/-! ## The host command word (R51 to R55) -/

/-- `ox = sext_16(CW[31:16])` (R53). -/
def fieldX (w : CmdWord) : Int := (w.extractLsb' 16 16).toInt
/-- `oy = sext_16(CW[47:32])` (R53). -/
def fieldY (w : CmdWord) : Int := (w.extractLsb' 32 16).toInt
/-- `oc = zext_8(CW[15:8])` (R53). -/
def fieldC (w : CmdWord) : Byte := w.extractLsb' 8 8
/-- `oon = CW[3]` (R53). -/
def fieldOn (w : CmdWord) : Bool := w.getLsbD 3
/-- `op = CW[2:0]` (R53). -/
def fieldOp (w : CmdWord) : Nat := (w.extractLsb' 0 3).toNat

/-- The illegal row of a word with `CW[7:4] ≠ 0`, by the highest set bit of `rsv`; `none` when `rsv` is zero (R55). -/
def reservedRow (w : CmdWord) : Option Instr :=
  if w.getLsbD 7 then some .reservedRsv7
  else if w.getLsbD 6 then some .reservedRsv6
  else if w.getLsbD 5 then some .reservedRsv5
  else if w.getLsbD 4 then some .reservedRsv4
  else none

/-- The row of `op` (R52), with the operands that row uses; fields it does not use are ignored (R54). -/
def opRow (w : CmdWord) : Instr :=
  match fieldOp w with
  | 0 => .init
  | 1 => .clear
  | 2 => .update
  | 3 => .drawPixel (fieldX w) (fieldY w) (fieldOn w)
  | 4 => .drawChar (fieldX w) (fieldY w) (fieldC w) (fieldOn w)
  | 5 => .drawString (fieldX w) (fieldY w) (fieldOn w)
  | 6 => .reservedOp6
  | _ => .reservedOp7

/-- Decoding of the command word. Total: every 48-bit value is a legal command or an illegal word (R55); legality is
looked at first (R128). -/
def decodeCmd (w : CmdWord) : Instr := (reservedRow w).getD (opRow w)

/-! ## The bus payload (R58) -/

/-- "The two kinds are told apart by the first payload byte alone; the length follows from the kind" (R58). -/
def decodeBus : List Byte → Except DecodeError Instr
  | [] => .error .emptyPayload
  | ctrl :: d =>
    if ctrl = Config.ctrlCmd then
      match d with
      | [b] => .ok (.busCmd b)
      | _ => .error .wrongLength
    else if ctrl = Config.ctrlData then
      if d.length = 128 then .ok (.busData d) else .error .wrongLength
    else .error .unknownControlByte

/-! ## The controller byte at its position (R59, R101, R104) -/

/-- The page-select byte of the table, `10110ppp`: the default `PAGE_BASE` plus the page index (R58, R59). -/
def pageSelectByte (pg : Fin 8) : Byte := 0xB0#8 + BitVec.ofNat 8 pg.val

/-- Decoding of a controller byte at its position: the position names the row, and the row has one byte. -/
def decodeCtl : CtlPos → Byte → Except DecodeError Instr
  | .pageSelect pg, b => if b = pageSelectByte pg then .ok (.ctlPageSelect pg) else .error .notTheRowsByte
  | .colLow, b => if b = 0x00#8 then .ok .ctlColLow else .error .notTheRowsByte
  | .colHigh, b => if b = 0x10#8 then .ok .ctlColHigh else .error .notTheRowsByte
  | .initEntry k, b =>
    match initSeqInstrs[k]? with
    | none => .error .noSuchRow
    | some i => if Config.initSeqDefault[k]? = some b then .ok i else .error .notTheRowsByte

/-- Decoding of a word of any format. -/
def decode : Code → Except DecodeError Instr
  | .cmd w => .ok (decodeCmd w)
  | .bus payload => decodeBus payload
  | .ctl pos b => decodeCtl pos b

/-- The instruction that sends byte `b` at `pos`: the table's row if `b` is that row's byte, and otherwise (another `Cfg`,
R59) the plain command transaction `[0x00, b]`, which is what the block sends there (R96). -/
def ctlInstr (pos : CtlPos) (b : Byte) : Instr :=
  match decodeCtl pos b with
  | .ok i => i
  | .error _ => .busCmd b

/-! ## Encoding, from the same tables -/

/-- Format `CMD` (R51): `y ‖ x ‖ c ‖ rsv ‖ on ‖ op`. -/
def packCmd (y x : Int) (c : Byte) (rsv : BitVec 4) (on : Bool) (op : BitVec 3) : CmdWord :=
  BitVec.ofInt 16 y ++ BitVec.ofInt 16 x ++ c ++ rsv ++ BitVec.ofBool on ++ op

/-- The canonical word of an instruction: zero in every field it does not use (R54). -/
def encode : Instr → Code
  | .init => .cmd (packCmd 0 0 0 0 false 0)
  | .clear => .cmd (packCmd 0 0 0 0 false 1)
  | .update => .cmd (packCmd 0 0 0 0 false 2)
  | .drawPixel x y on => .cmd (packCmd y x 0 0 on 3)
  | .drawChar x y c on => .cmd (packCmd y x c 0 on 4)
  | .drawString x y on => .cmd (packCmd y x 0 0 on 5)
  | .reservedOp6 => .cmd (packCmd 0 0 0 0 false 6)
  | .reservedOp7 => .cmd (packCmd 0 0 0 0 false 7)
  | .reservedRsv7 => .cmd (packCmd 0 0 0 8 false 0)
  | .reservedRsv6 => .cmd (packCmd 0 0 0 4 false 0)
  | .reservedRsv5 => .cmd (packCmd 0 0 0 2 false 0)
  | .reservedRsv4 => .cmd (packCmd 0 0 0 1 false 0)
  | .busCmd b => .bus [Config.ctrlCmd, b]
  | .busData d => .bus (Config.ctrlData :: d)
  | .ctlPageSelect pg => .ctl (.pageSelect pg) (pageSelectByte pg)
  | .ctlColLow => .ctl .colLow 0x00
  | .ctlColHigh => .ctl .colHigh 0x10
  | .initSeq00 => .ctl (.initEntry 0) 0xAE
  | .initSeq01 => .ctl (.initEntry 1) 0x20
  | .initSeq02 => .ctl (.initEntry 2) 0x02
  | .initSeq03 => .ctl (.initEntry 3) 0xB0
  | .initSeq04 => .ctl (.initEntry 4) 0x00
  | .initSeq05 => .ctl (.initEntry 5) 0x10
  | .initSeq06 => .ctl (.initEntry 6) 0xC8
  | .initSeq07 => .ctl (.initEntry 7) 0xA1
  | .initSeq08 => .ctl (.initEntry 8) 0x81
  | .initSeq09 => .ctl (.initEntry 9) 0xCF
  | .initSeq10 => .ctl (.initEntry 10) 0xA6
  | .initSeq11 => .ctl (.initEntry 11) 0xA8
  | .initSeq12 => .ctl (.initEntry 12) 0x3F
  | .initSeq13 => .ctl (.initEntry 13) 0xA4
  | .initSeq14 => .ctl (.initEntry 14) 0xD3
  | .initSeq15 => .ctl (.initEntry 15) 0x00
  | .initSeq16 => .ctl (.initEntry 16) 0xD5
  | .initSeq17 => .ctl (.initEntry 17) 0x80
  | .initSeq18 => .ctl (.initEntry 18) 0xD9
  | .initSeq19 => .ctl (.initEntry 19) 0xF1
  | .initSeq20 => .ctl (.initEntry 20) 0xDA
  | .initSeq21 => .ctl (.initEntry 21) 0x12
  | .initSeq22 => .ctl (.initEntry 22) 0xDB
  | .initSeq23 => .ctl (.initEntry 23) 0x40
  | .initSeq24 => .ctl (.initEntry 24) 0x8D
  | .initSeq25 => .ctl (.initEntry 25) 0x14
  | .initSeq26 => .ctl (.initEntry 26) 0xAF

/-- How many bits a word has. -/
def Code.bits : Code → Nat
  | .cmd _ => 48
  | .bus payload => 8 * payload.length
  | .ctl _ _ => 8

/-! ## Words as spec/opcode_table.json numbers them: bit 0 is the least significant bit of the first byte -/

/-- The bytes of a word, the first byte its least significant one. -/
def wordBytes (n w : Nat) : List Byte := (List.range n).map fun i => BitVec.ofNat 8 (w >>> (8 * i))

/-- How many bytes a payload has, by its control byte (R58). -/
def payloadLength (ctrl : Byte) : Nat := if ctrl = Config.ctrlData then 129 else 2

/-- The positions a bare controller byte is looked up at, in this order: UPDATE's three commands, then the entries of
`INIT_SEQ`. A byte alone does not name its row (R101: operand bytes coincide with opcode values), so the first position
whose row has the byte is taken. DESIGN CHOICE, log entry 19. -/
def ctlPositions : List CtlPos :=
  (List.finRange 8).map .pageSelect ++ [.colLow, .colHigh] ++ (List.range 27).map .initEntry

/-- The word that `nbits` bits `w` of a table row are: 48 bits are a command word, 8 bits a controller byte, anything else
a bus payload (its bits above `nbits` zero). -/
def codeOfTableWord (nbits w : Nat) : Code :=
  if nbits = 48 then .cmd (BitVec.ofNat 48 w)
  else if nbits = 8 then
    let b := BitVec.ofNat 8 w
    match ctlPositions.find? fun pos => (decodeCtl pos b).toOption.isSome with
    | some pos => .ctl pos b
    | none => .ctl (.initEntry 0) b
  else .bus (wordBytes (max (nbits / 8) (payloadLength (BitVec.ofNat 8 w))) w)

/-- The instruction this decoder reads from a table row's word. -/
def decodeTableWord (nbits w : Nat) : Option Instr := (decode (codeOfTableWord nbits w)).toOption

end Sys2Proof
end

