-- ==== Sys2Proof/Machine/State.lean ====
section
/-! DEFINITION. The state of the machine as plain data (`10_state.md`), its reset value, and the reasons a step can stop.

Four groups of fields: the block's own state (R10 to R15), the ports of the block (R50, R56, R57, R95) with what stands
at them, the environment's controller and panel (R21, R22), and what the model itself adds (`draws`). -/

namespace Sys2Proof.Machine

/-! ## The block -/

/-- The framebuffer `FB` as a list of (address, byte) cells in canonical form (`Memory.wf`). An unlisted address reads as
its reset contents `FB_RESET` (R11). -/
abbrev Memory := List Host.Cell

/-- The three commands UPDATE sends before a page's data: `k` = 0, 1, 2 of `PageCmd(pg, k)` (R14, R104). -/
inductive PageCmdKind
  | select | colLow | colHigh
deriving DecidableEq, Repr

/-- The sequencer position `seq` (R14). Its arguments are the loop counters `is`, `ci`, `gi`, `gj`, `pg` of R13. -/
inductive Seq
  /-- waiting for a command -/
  | idle
  /-- INIT: waiting out the settling delay -/
  | settle
  /-- INIT: about to send `INIT_SEQ[is]` -/
  | initStep (is : Nat)
  /-- CLEAR: about to write `FB[ci]` -/
  | clearing (ci : Fin 1024)
  /-- DRAW_PIXEL: the single read-modify-write -/
  | pixel
  /-- DRAW_CHAR, or one character of DRAW_STRING: about to set pixel row `gj` of column `gi` -/
  | glyph (gi : Fin 5) (gj : Fin 8)
  /-- DRAW_STRING: about to take the next byte of the text stream -/
  | nextChar
  /-- UPDATE: about to send command `k` of page `pg` -/
  | pageCmd (pg : Fin 8) (k : PageCmdKind)
  /-- UPDATE: about to send the data transaction of page `pg` -/
  | pageData (pg : Fin 8)
deriving DecidableEq, Repr

/-- `ctrl_state`, the one flag (R15). -/
inductive CtrlState
  | uninitialized | ready
deriving DecidableEq, Repr

/-! ## The ports -/

/-- A command the host presents (R50), with the bytes it offers at the text port while that command runs (R57). -/
structure HostCommand where
  word : CmdWord
  text : List Byte
deriving DecidableEq, Repr

/-- The bus transport's answer to one transaction (R95). -/
inductive BusAnswer
  | ack
  | fault (e : FaultInfo)
deriving DecidableEq, Repr

/-- One transaction of the bus trace: address, payload and answer (R154). -/
structure BusEvent where
  addr    : BusAddr
  payload : List Byte
  answer  : BusAnswer
deriving DecidableEq, Repr

/-- A command's completion, the pair `(status, info)` (R56). There is no fourth status (U18). -/
inductive Completion
  | ok
  | busFault (e : FaultInfo)
  | illegal
deriving DecidableEq, Repr

/-! ## The environment: the controller and the panel (R21, R22). An ASSUMPTION, log entry 12 -/

/-- The external controller as far as the spec speaks of it. -/
structure Controller where
  /-- the entries of `INIT_SEQ` taken in the latest initialisation, of which the sixteen settings are made (R17, R124) -/
  taken : List Byte
  /-- its pointers and its display memory (R21, R22) -/
  regs  : ControllerRegs
  /-- the model's own counter of the free values drawn (`Config.freeController`) -/
  draws : Nat
deriving DecidableEq, Repr

/-- The controller after the block's reset: "unspecified" (R23), a free value; no entry is taken. Log entries 13, 14. -/
def Controller.reset : Controller where
  taken := []
  regs  := Config.freeController 0
  draws := 1

/-! ## The state -/

/-- The state of the machine. -/
structure State where
  /-- the configuration (R8), an input: no step changes it (R19, R155) -/
  cfg         : Cfg
  /-- `FB` (R11) -/
  fb          : Memory
  /-- `ctrl_state` (R15) -/
  ctrl        : CtrlState
  /-- `seq`, with the loop counters its position carries (R13, R14) -/
  seq         : Seq
  /-- the working registers: operand latches and resting loop counters (R13) -/
  latches     : Latches
  /-- command port: the commands the host has still to present, in order (R50, R154) -/
  cmds        : List HostCommand
  /-- text port: the bytes offered to the running command and not yet taken (R57) -/
  text        : List Byte
  /-- bus port: the answers the transport gives to the next transactions, in order (R95) -/
  answers     : List BusAnswer
  /-- status output: the completions delivered, in order (R56, R154) -/
  completions : List Completion
  /-- the bus trace: every transaction answered, in order (R19, R154) -/
  trace       : List BusEvent
  /-- the environment's controller and panel (R21, R22) -/
  controller  : Controller
  /-- the model's own counter of the free values drawn (`Config.freeLatches`) -/
  draws       : Nat
deriving DecidableEq, Repr

/-- The reset values of the working registers: the spec gives none ("unspecified; never read before written", R23).
DESIGN CHOICE, unsafe: log entry 9. -/
def Latches.reset : Latches where
  op  := .init
  ox  := 0
  oy  := 0
  oc  := 0
  oon := false
  cur := 0
  gi  := 0
  gj  := 0
  pg  := 0
  col := 0
  ci  := 0
  is  := 0

/-- The state after reset (R23, R140) of a block with configuration `c`: `FB` reads as `FB_RESET`, `ctrl_state` is
`Uninitialized`, `seq` is `Idle`, no completion is pending, and no transaction has been emitted. -/
def State.resetWith (c : Cfg) : State where
  cfg         := c
  fb          := []
  ctrl        := .uninitialized
  seq         := .idle
  latches     := Latches.reset
  cmds        := []
  text        := []
  answers     := []
  completions := []
  trace       := []
  controller  := Controller.reset
  draws       := 0

/-- The machine right after reset, with the default configuration (R8). -/
def State.reset : State := State.resetWith Config.defaultCfg

/-! ## The reasons a step can stop -/

/-- Faults: the machine stops. -/
inductive Fault
  /-- `seq` is `InitStep(is)` with `is ≥ len(INIT_SEQ)`, a position R14 does not have. Raised by `step` only; no run
  reaches it (`State.Legal`, Safety.lean, is kept by every step). Safe: the model stops where the hardware cannot stand.
  Log entry 25. -/
  | noSuchPosition
deriving DecidableEq, Repr

/-- Refusals: no meaning for the instruction. -/
inductive Refusal
  /-- The instruction has no meaning yet. Raised by no arm of `exec`. Safe. -/
  | notModelled (mnemonic : String)
deriving DecidableEq, Repr

end Sys2Proof.Machine
end

