-- ==== Sys2Proof/Machine/Ops.lean ====
section
/-! DEFINITION. The operations all meanings share: the framebuffer and the glyph ROM (`20_memory.md`), one bus transaction
and what the controller makes of it (`42_controller_protocol.md` R95 to R97, `10_state.md` R22), completing a command, and
taking the block's two exceptions (`60_exceptions.md` R121, R122). There is no return from an exception: "There is no
return instruction and nothing to restore" (R126). -/

namespace Sys2Proof.Machine

/-! ## Memory: the framebuffer's cells -/

/-- The byte at address `a` of `FB` right after reset, `FB_RESET[a]` (R11). It is also what an unlisted cell reads as.
DESIGN CHOICE, log entry 27: 0 outside 0 to 1023, which no rule reads (R36). -/
def resetByte (c : Cfg) (a : Nat) : Byte := c.fbReset.toList.getD a 0

/-- The listed value of address `a`. -/
def Memory.lookup : Memory → Nat → Option Byte
  | [], _ => none
  | (k, v) :: m, a => if k = a then some v else Memory.lookup m a

/-- `MemRead(a, 1)`, `FB[a]` (R9, R33). -/
def Memory.read (c : Cfg) (m : Memory) (a : Nat) : Byte := (m.lookup a).getD (resetByte c a)

/-- Lists `v` at `a`, keeping the addresses rising. -/
def Memory.insertCell : Memory → Nat → Byte → Memory
  | [], a, v => [(a, v)]
  | (k, w) :: m, a, v =>
    if a < k then (a, v) :: (k, w) :: m
    else if a = k then (a, v) :: m
    else (k, w) :: Memory.insertCell m a v

/-- Unlists address `a`. -/
def Memory.eraseCell (m : Memory) (a : Nat) : Memory := m.filter fun cell => cell.1 != a

/-- `MemWrite(a, 1, v)`, `FB[a] <- v` (R9, R33). A byte equal to what the unlisted address reads as is unlisted. -/
def Memory.write (c : Cfg) (m : Memory) (a : Nat) (v : Byte) : Memory :=
  if v = resetByte c a then m.eraseCell a else m.insertCell a v

/-- The canonical form: addresses strictly rising and inside `FB` (0 to 1023), no cell equal to what an unlisted address
reads as. -/
abbrev Memory.wf (c : Cfg) (m : Memory) : Prop :=
  List.Pairwise (fun p q => p.1 < q.1) m ∧ ∀ p ∈ m, p.1 < 1024 ∧ p.2 ≠ resetByte c p.1

/-! ## The pixel map (R30) -/

/-- `page(y) = y div 8`. -/
def pageOf (y : Nat) : Nat := y / 8
/-- `bit(y) = y mod 8`. -/
def bitOf (y : Nat) : Nat := y % 8
/-- `addr(x, y) = x + page(y) · 128`. -/
def pixelAddr (x y : Nat) : Nat := x + pageOf y * 128
/-- `1 << k`, the byte with only bit `k` set (R9). -/
def bitMask (k : Nat) : Byte := 1#8 <<< k

/-- The observation function `pixel(x, y) = FB[addr(x, y)][bit(y)]` (R9, R31). -/
def Memory.pixel (c : Cfg) (m : Memory) (x y : Nat) : Bool := (m.read c (pixelAddr x y)).getLsbD (bitOf y)

/-- The 128 bytes of page `pg` in ascending address order (R32, R104). -/
def Memory.slice (c : Cfg) (m : Memory) (pg : Nat) : List Byte := (List.range 128).map fun col => m.read c (pg * 128 + col)

/-! ## The glyph ROM (R80) -/

/-- `RomRead(ch, i) = GLYPH[ch − 32][i]`, at linear address `(ch − 32)·5 + i`. DESIGN CHOICE, log entry 27: for a code
without a glyph, of which no rule reads a byte (R36), it is 0 above 126 and glyph 32's byte below 32. -/
def romRead (c : Cfg) (ch : Byte) (i : Nat) : Byte := c.glyph.toList.getD ((ch.toNat - 32) * 5 + i) 0

/-! ## Reads of the state -/

/-- `FB[a]` of a state. -/
def State.fbByte (s : State) (a : Nat) : Byte := s.fb.read s.cfg a
/-- `pixel(x, y)` of a state. -/
def State.pixel (s : State) (x y : Nat) : Bool := s.fb.pixel s.cfg x y
/-- The page slice UPDATE sends for page `pg`. -/
def State.slice (s : State) (pg : Nat) : List Byte := s.fb.slice s.cfg pg

/-! ## Completing a command (R56, R121, R122) -/

/-- The codes of the completion status (R56). -/
def Completion.status : Completion → BitVec 2
  | .ok => 0b00
  | .busFault _ => 0b01
  | .illegal => 0b10

/-- The end of a command: one completion is delivered and the sequencer is idle (R14, R56). What the working registers then
hold is a free value (U17, log entry 10). -/
def State.complete (r : Completion) (s : State) : State :=
  { s with
    seq := .idle
    latches := Config.freeLatches s.draws
    draws := s.draws + 1
    completions := s.completions ++ [r] }

/-- `raise BusFault(e)` (R121): nothing more is sent, `seq <- Idle`, the completion is `(BUS_FAULT, e)`. This is the whole
of taking that exception (R125: no handler, no vector, no saved state, no mode change). -/
def State.raiseBusFault (e : FaultInfo) (s : State) : State := s.complete (.busFault e)

/-- `raise Illegal` (R122): the completion is `ILLEGAL`; "`FB`, `ctrl_state` and the bus are untouched; the text port is
not read; `seq` stays `Idle`". -/
def State.raiseIllegal (s : State) : State := { s with completions := s.completions ++ [.illegal] }

/-! ## What the controller makes of a transaction (R21, R22, R124): the environment, log entries 12 to 14 -/

/-- `Cfg` is a faithful instance (R100): the default bytes are; others are where they realise the sixteen settings and the
page and column commands, which takes an entry for each setting at least. Log entry 12. -/
def faithful (c : Cfg) : Bool :=
  (c.initSeq == Config.initSeqDefault && c.pageBase == 0xB0 && c.colLow == 0x00 && c.colHigh == 0x10) ||
    (decide (16 ≤ c.initSeq.length) && Config.otherFaithful c.initSeq c.pageBase c.colLow c.colHigh)

/-- Something is said of the panel: `ctrl_state = Ready` (R22), and `Cfg` is faithful ("For a `Cfg` whose `INIT_SEQ` is not a
faithful instance (rule R100): `PANEL` is `any value`", U13). -/
def State.panelSaid (s : State) : Bool := s.ctrl == .ready && faithful s.cfg

/-- Nothing is said of the pointers and of the panel any more: they hold a free value. -/
def Controller.forget (k : Controller) : Controller :=
  { k with regs := Config.freeController k.draws, draws := k.draws + 1 }

/-- Where the byte of a command transaction stands when the sequencer is at `q`. -/
def ctlPosAt : Seq → Option CtlPos
  | .initStep is => some (.initEntry is)
  | .pageCmd pg .select => some (.pageSelect pg)
  | .pageCmd _ .colLow => some .colLow
  | .pageCmd _ .colHigh => some .colHigh
  | _ => none

/-- The controller acknowledges command byte `b`, which stands at `pos`. The page and column commands set their pointers
where something is said of the panel; otherwise, and for a byte of no position, the registers can hold anything. -/
def Controller.takeCommand (said : Bool) (pos : Option CtlPos) (b : Byte) (k : Controller) : Controller :=
  match pos, said with
  | some (.initEntry _), _ => { k.forget with taken := k.taken ++ [b] }
  | some (.pageSelect pg), true => { k with regs := { k.regs with pagePtr := pg } }
  | some .colLow, true => { k with regs := { k.regs with colLow := 0 } }
  | some .colHigh, true => { k with regs := { k.regs with colHigh := 0 } }
  | _, _ => k.forget

/-- A command byte that stands at `pos` was faulted: "how much of it reached the device is unknown" (R124), so its pointer
holds a free value. -/
def Controller.missCommand (said : Bool) (pos : Option CtlPos) (k : Controller) : Controller :=
  let any := Config.freeController k.draws
  match pos, said with
  | some (.pageSelect _), true => { k with regs := { k.regs with pagePtr := any.pagePtr }, draws := k.draws + 1 }
  | some .colLow, true => { k with regs := { k.regs with colLow := any.colLow }, draws := k.draws + 1 }
  | some .colHigh, true => { k with regs := { k.regs with colHigh := any.colHigh }, draws := k.draws + 1 }
  | _, _ => k.forget

/-- The page pointer's page takes its bytes from `p` (R22). Where the column pointer is past the 128th byte is not in the
source (R21): it holds a free value. Without R22's premise, or with a column pointer that is not zero (U14), so does
everything. -/
def Controller.setPage (said : Bool) (p : Fin 8 → Vector Byte 128) (k : Controller) : Controller :=
  if said = true ∧ k.regs.colLow = 0 ∧ k.regs.colHigh = 0 then
    let any := Config.freeController k.draws
    let pg := k.regs.pagePtr
    { k with
      regs := { k.regs with colLow := any.colLow, colHigh := any.colHigh, panel := k.regs.panel.set pg.val (p pg) pg.isLt }
      draws := k.draws + 1 }
  else k.forget

/-- The controller acknowledges the data bytes `d`, a page's 128 (R97): the page's bytes are `d` (R22). -/
def Controller.takeData (said : Bool) (d : List Byte) (k : Controller) : Controller :=
  if h : d.length = 128 then k.setPage said fun _ => ⟨d.toArray, h⟩ else k.forget

/-- A data transaction was faulted: the page "holds any value" (R22, R124). -/
def Controller.missData (said : Bool) (k : Controller) : Controller :=
  k.setPage said fun pg => (Config.freeController k.draws).panel[pg.val]

/-- The 128 bytes of page `pg` of `PANEL`. -/
def Controller.page (k : Controller) (pg : Fin 8) : List Byte := k.regs.panel[pg.val].toList

/-- `PANEL[a]`, with the framebuffer's layout (R22). -/
def Controller.panelByte (k : Controller) (a : Fin 1024) : Byte :=
  (k.regs.panel[a.val / 128]'(by omega))[a.val % 128]'(by omega)

/-- The controller's register of one setting, as R101 lays the settings out: the bytes taken for it. -/
def Controller.settingBytes (k : Controller) (st : Setting) : List Byte :=
  ((k.taken.zip initSeqSettings).filter fun p => p.2 == st).map Prod.fst

/-! ## One bus transaction (R95 to R97) -/

/-- The outcome of handing the transport one transaction. -/
inductive BusResult
  /-- the transport has not answered: the block waits without limit (R95, R150) -/
  | waiting
  /-- `Ack` -/
  | acked (s : State)
  /-- `Fault(e)` -/
  | faulted (e : FaultInfo) (s : State)
deriving DecidableEq, Repr

/-- `BusWrite(a7, bytes)` (R95): the next answer of the transport is taken, and the transaction is recorded with it. -/
def State.busWrite (a7 : BusAddr) (bytes : List Byte) (s : State) : BusResult :=
  match s.answers with
  | [] => .waiting
  | .ack :: rest => .acked { s with answers := rest, trace := s.trace ++ [⟨a7, bytes, .ack⟩] }
  | .fault e :: rest => .faulted e { s with answers := rest, trace := s.trace ++ [⟨a7, bytes, .fault e⟩] }

/-- The payload of `SendCmd(b)` (R96). -/
def cmdPayload (b : Byte) : List Byte := [Config.ctrlCmd, b]
/-- The payload of `SendData(d)` (R97). -/
def dataPayload (d : List Byte) : List Byte := Config.ctrlData :: d

/-- `SendCmd(b)` (R96), up to the answer. -/
def State.sendCmd (b : Byte) (s : State) : BusResult := s.busWrite Config.devAddr (cmdPayload b)
/-- `SendData(d)` (R97), up to the answer. -/
def State.sendData (d : List Byte) (s : State) : BusResult := s.busWrite Config.devAddr (dataPayload d)

/-! ## The host's and the transport's moves (R155), between steps -/

/-- The host presents further commands. -/
def State.offerCommands (cs : List HostCommand) (s : State) : State := { s with cmds := s.cmds ++ cs }
/-- The host offers further bytes at the text port. -/
def State.offerText (bs : List Byte) (s : State) : State := { s with text := s.text ++ bs }
/-- The transport answers further transactions. -/
def State.offerAnswers (as : List BusAnswer) (s : State) : State := { s with answers := s.answers ++ as }

/-- The block takes the command the host presents, with the bytes offered at the text port for it (R50, R57). -/
def State.accept (c : HostCommand) (rest : List HostCommand) (s : State) : State :=
  { s with cmds := rest, text := c.text }

end Sys2Proof.Machine
end

