-- ==== Sys2Proof/Machine/Operands.lean ====
section
/-! DEFINITION. The operands of the commands: the coordinate test (`40_framebuffer_pixel.md` R70), the character test
(`41_glyph_rasterizer.md` R84), the color of a glyph pixel (R84), loading the operand latches (`10_state.md` R13), and the
views of the loop counters that R13 names. -/

namespace Sys2Proof.Machine

/-- The bounds check of the pixel setter, on integers (R70, R72). -/
abbrev onScreen (x y : Int) : Prop := 0 ≤ x ∧ x < 128 ∧ 0 ≤ y ∧ y < 64

/-- The code has a glyph: `32 ≤ c ≤ 126` on the unsigned code (R84, R92). -/
abbrev hasGlyph (ch : Byte) : Prop := 32 ≤ ch.toNat ∧ ch.toNat ≤ 126

/-- `v(i,j) = not (g[j] xor color)` (R84): the color where the glyph bit is set, its inverse where it is not. -/
def glyphColor (g : Byte) (j : Nat) (color : Bool) : Bool := if g.getLsbD j then color else !color

/-- `w_i`: the glyph byte with `color` = 1, its complement with `color` = 0 (R86). -/
def inked (g : Byte) (color : Bool) : Byte := if color then g else ~~~g

/-- Loads the latch `op` (R13). -/
def State.loadOp (op : CmdOp) (s : State) : State := { s with latches := { s.latches with op := op } }
/-- Loads the origin and color operands (R13, R53). -/
def State.loadDraw (op : CmdOp) (x y : Int) (on : Bool) (s : State) : State :=
  { s with latches := { s.latches with op := op, ox := x, oy := y, oon := on } }

/-! ## The loop counters of R13: the position's argument where it carries one (R14), the resting value otherwise -/

/-- `is` -/
def State.counterIs (s : State) : Nat := match s.seq with | .initStep is => is | _ => s.latches.is
/-- `ci` -/
def State.counterCi (s : State) : Fin 1024 := match s.seq with | .clearing ci => ci | _ => s.latches.ci
/-- `gi` -/
def State.counterGi (s : State) : Fin 5 := match s.seq with | .glyph gi _ => gi | _ => s.latches.gi
/-- `gj` -/
def State.counterGj (s : State) : Fin 8 := match s.seq with | .glyph _ gj => gj | _ => s.latches.gj
/-- `pg` -/
def State.counterPg (s : State) : Fin 8 :=
  match s.seq with | .pageCmd pg _ => pg | .pageData pg => pg | _ => s.latches.pg

/-- A character of DRAW_STRING is drawn and its loops have ended at their last values, which `gi` and `gj` then keep. -/
def Latches.restGlyph (l : Latches) : Latches := { l with gi := 4, gj := 7 }

/-- DRAW_STRING's cursor advances (R88, R89). -/
def Latches.advance (l : Latches) : Latches := { l with cur := l.cur + Config.charAdvance }

end Sys2Proof.Machine
end

