-- ==== Sys2Proof/Machine/Flags.lean ====
section
/-! DEFINITION. The one flag of the block, `ctrl_state` (`10_state.md` R15), which only INIT writes. The block has no
condition codes; a completion status is an output and is not stored. -/

namespace Sys2Proof.Machine

/-- `ctrl_state <- Ready`: INIT completes with every transaction acknowledged (R15, R99). -/
def State.setReady (s : State) : State := { s with ctrl := .ready }

/-- `ctrl_state <- Uninitialized` when the faulted transaction is an entry of INIT (R15, R99, R124); a fault of UPDATE
leaves it (R124). -/
def State.dropReady (pos : Option CtlPos) (s : State) : State :=
  match pos with
  | some (.initEntry _) => { s with ctrl := .uninitialized }
  | _ => s

end Sys2Proof.Machine
end

