-- ==== Sys2Proof/Machine/Reserved.lean ====
section
/-! DEFINITION. The illegal command words (`30_encoding.md` R55): each takes the exception `Illegal`
(`60_exceptions.md` R122). -/

namespace Sys2Proof.Machine

/-- An illegal word, `op` = 0b110 (R55, R122). -/
def execReservedOp6 (s : State) : Host.Outcome State Fault Refusal := .next s.raiseIllegal
/-- An illegal word, `op` = 0b111 (R55, R122). -/
def execReservedOp7 (s : State) : Host.Outcome State Fault Refusal := .next s.raiseIllegal
/-- An illegal word, bit 7 the highest set bit of `rsv` (R55, R122). -/
def execReservedRsv7 (s : State) : Host.Outcome State Fault Refusal := .next s.raiseIllegal
/-- An illegal word, bit 6 the highest set bit of `rsv` (R55, R122). -/
def execReservedRsv6 (s : State) : Host.Outcome State Fault Refusal := .next s.raiseIllegal
/-- An illegal word, bit 5 the highest set bit of `rsv` (R55, R122). -/
def execReservedRsv5 (s : State) : Host.Outcome State Fault Refusal := .next s.raiseIllegal
/-- An illegal word, bit 4 the highest set bit of `rsv` (R55, R122). -/
def execReservedRsv4 (s : State) : Host.Outcome State Fault Refusal := .next s.raiseIllegal

end Sys2Proof.Machine
end

