-- ==== Sys2Proof/Machine/Framebuffer.lean ====
section
/-! DEFINITION. The framebuffer commands CLEAR and DRAW_PIXEL (`40_framebuffer_pixel.md`). -/

namespace Sys2Proof.Machine

/-- `SetPixel(x, y, on)` (R72): a silent no-op off the screen; otherwise it "sets or clears that bit in byte
`x + page*WIDTH`, leaving all other bits untouched". -/
def setPixel (c : Cfg) (x y : Int) (on : Bool) (m : Memory) : Memory :=
  if onScreen x y then
    let a := pixelAddr x.toNat y.toNat
    let mask := bitMask (bitOf y.toNat)
    m.write c a (if on then m.read c a ||| mask else m.read c a &&& ~~~mask)
  else m

/-- `SetPixel` on the state's framebuffer. -/
def State.setPixel (x y : Int) (on : Bool) (s : State) : State := { s with fb := Machine.setPixel s.cfg x y on s.fb }

/-- CLEAR's loop (R71): `for ci in 0..1023: FB[ci] <- 0x00`. -/
def clearFb (c : Cfg) (m : Memory) : Memory := (List.range 1024).foldl (fun m ci => m.write c ci 0) m

/-- CLEAR (R71). -/
def execClear (s : State) : Host.Outcome State Fault Refusal :=
  .next (({ s.loadOp .clear with fb := clearFb s.cfg s.fb }).complete .ok)

/-- DRAW_PIXEL `x, y, on` (R72): `SetPixel(ox, oy, oon); complete (OK)`, on the screen or not. -/
def execDrawPixel (x y : Int) (on : Bool) (s : State) : Host.Outcome State Fault Refusal :=
  .next (((s.loadDraw .drawPixel x y on).setPixel x y on).complete .ok)

end Sys2Proof.Machine
end

