-- ==== Sys2Proof/Machine/Glyph.lean ====
section
/-! DEFINITION. The glyph rasterizer, DRAW_CHAR and DRAW_STRING (`41_glyph_rasterizer.md`). -/

namespace Sys2Proof.Machine

/-- One glyph column of `DrawChar` (R84): rows `j` = 0 to 7 of column `g` at `(x, y + j)`. -/
def drawColumn (c : Cfg) (x y : Int) (g : Byte) (color : Bool) (m : Memory) : Memory :=
  (List.range 8).foldl (fun m (j : Nat) => setPixel c x (y + j) (glyphColor g j color) m) m

/-- `DrawChar(x, y, c, color)` (R84), with an integer `x` of any size: `i` outer, `j` inner, both ascending; a silent
no-op for a code without a glyph. -/
def drawChar (c : Cfg) (x y : Int) (ch : Byte) (color : Bool) (m : Memory) : Memory :=
  if hasGlyph ch then
    (List.range 5).foldl (fun m (i : Nat) => drawColumn c (x + i) y (romRead c ch i) color m) m
  else m

/-- DRAW_CHAR `x, y, c, on` (R84). -/
def execDrawChar (x y : Int) (ch : Byte) (on : Bool) (s : State) : Host.Outcome State Fault Refusal :=
  let s1 := s.loadDraw .drawChar x y on
  .next (({ s1 with latches := { s1.latches with oc := ch }, fb := drawChar s.cfg x y ch on s.fb }).complete .ok)

/-- The working registers after character `b` of DRAW_STRING (R88): the glyph loops have run where `b` has a glyph, and the
cursor has advanced whether it has one or not (R89). -/
def Latches.pastChar (b : Byte) (l : Latches) : Latches :=
  Latches.advance (if hasGlyph b then Latches.restGlyph { l with oc := b } else { l with oc := b })

/-- One character of DRAW_STRING (R88): it is drawn at the cursor, and the cursor advances. -/
def State.drawNext (b : Byte) (s : State) : State :=
  { s with
    fb := drawChar s.cfg s.latches.cur s.latches.oy b s.latches.oon s.fb
    latches := Latches.pastChar b s.latches }

/-- DRAW_STRING's loop (R88) over the bytes at the text port: `0x00` is taken, ends the string and is not drawn (R90). When
the stream stops before a `0x00` the command stands at `NextChar` and has not completed (R57, U7). -/
def drawText : List Byte → State → State
  | [], s => { s with text := [], seq := .nextChar }
  | b :: rest, s => if b = 0 then ({ s with text := rest }).complete .ok else drawText rest (s.drawNext b)

/-- DRAW_STRING loads its operands; `cur = ox` (R88). -/
def State.startString (x y : Int) (on : Bool) (s : State) : State :=
  let s1 := s.loadDraw .drawString x y on
  { s1 with latches := { s1.latches with cur := x } }

/-- DRAW_STRING `x, y, on` (R88). -/
def execDrawString (x y : Int) (on : Bool) (s : State) : Host.Outcome State Fault Refusal :=
  .next (drawText s.text (s.startString x y on))

end Sys2Proof.Machine
end

