-- ==== Sys2Proof/Machine/Sequencer.lean ====
section
/-! DEFINITION. The display controller sequencer (`42_controller_protocol.md`): the two bus transactions BUS_CMD and
BUS_DATA, the controller command bytes INIT and UPDATE send, and the commands INIT and UPDATE themselves.

INIT and UPDATE run their transactions as long as the transport answers. When it has not answered, the command stands at
its position (R150) and each later step makes one transaction, once the transport has answered (log entries 1 and 2). -/

namespace Sys2Proof.Machine

/-! ## From one position to the next (R14, R99, R104) -/

/-- INIT goes to entry `is`, or completes when `INIT_SEQ` has no more: `ctrl_state <- Ready`, `seq <- Idle` (R99). -/
def State.enterInit (is : Nat) (s : State) : State :=
  if is < s.cfg.initSeq.length then { s with seq := .initStep is } else s.setReady.complete .ok

/-- UPDATE goes on after the data of page `pg`: to the next page, or it completes after page 7 (R104). -/
def State.enterPageAfter (pg : Fin 8) (s : State) : State :=
  if h : pg.val + 1 < 8 then { s with seq := .pageCmd ⟨pg.val + 1, h⟩ .select } else s.complete .ok

/-- UPDATE goes to the data of page `pg`: the slice is read, `col` running to 127 (R104), and stands to be sent. -/
def State.enterPageData (pg : Fin 8) (s : State) : State :=
  { s with seq := .pageData pg, latches := { s.latches with col := 127 } }

/-- The sequencer goes on after an acknowledged command transaction; at a position that sends none it stays. -/
def State.afterCommand (s : State) : State :=
  match s.seq with
  | .initStep is => s.enterInit (is + 1)
  | .pageCmd pg .select => { s with seq := .pageCmd pg .colLow }
  | .pageCmd pg .colLow => { s with seq := .pageCmd pg .colHigh }
  | .pageCmd pg .colHigh => s.enterPageData pg
  | _ => s

/-- The sequencer goes on after an acknowledged data transaction; at a position that sends none it stays. -/
def State.afterData (s : State) : State :=
  match s.seq with
  | .pageData pg => s.enterPageAfter pg
  | _ => s

/-! ## One transaction of the sequencer -/

/-- `SendCmd(b)` (R96) for the byte that stands at `pos`: on `Ack` the controller has the byte and the sequencer goes on; on
`Fault(e)`, `raise BusFault(e)`; without an answer nothing happens yet. -/
def State.sendCommand (pos : Option CtlPos) (b : Byte) (s : State) : State :=
  match s.sendCmd b with
  | .waiting => s
  | .acked t => { t with controller := t.controller.takeCommand s.panelSaid pos b }.afterCommand
  | .faulted e t => ({ t with controller := t.controller.missCommand s.panelSaid pos }.dropReady pos).raiseBusFault e

/-- `SendData(d)` (R97), the same for a page slice; the loop over `col` ends at 127. -/
def State.sendSlice (d : List Byte) (s : State) : State :=
  match s.sendData d with
  | .waiting => s
  | .acked t =>
    { t with controller := t.controller.takeData s.panelSaid d, latches := { t.latches with col := 127 } }.afterData
  | .faulted e t => { t with controller := t.controller.missData s.panelSaid }.raiseBusFault e

/-- The position of command `k` of page `pg`. -/
def pagePos (pg : Fin 8) : PageCmdKind → CtlPos
  | .select => .pageSelect pg
  | .colLow => .colLow
  | .colHigh => .colHigh

/-- The byte of command `k` of page `pg` (R104): `PAGE_BASE + pg`, `COL_LOW`, `COL_HIGH`. -/
def pageByte (c : Cfg) (pg : Fin 8) : PageCmdKind → Byte
  | .select => c.pageBase + BitVec.ofNat 8 pg.val
  | .colLow => c.colLow
  | .colHigh => c.colHigh

/-- The transaction of the sequencer's position; other positions make none. -/
def State.busStep (s : State) : State :=
  match s.seq with
  | .initStep is =>
    match s.cfg.initSeq[is]? with
    | some b => s.sendCommand (some (.initEntry is)) b
    | none => s
  | .pageCmd pg k => s.sendCommand (some (pagePos pg k)) (pageByte s.cfg pg k)
  | .pageData pg => s.sendSlice (s.slice pg)
  | _ => s

/-- The command in progress makes transactions while the transport answers them: `n` at most, one answer each. -/
def runBus : Nat → State → State
  | 0, s => s
  | n + 1, s => runBus n s.busStep

/-! ## INIT and UPDATE -/

/-- INIT starts: a new initialisation of the controller begins (R124, log entry 26), and the settling delay is no step of a model
without time (R102). -/
def State.startInit (s : State) : State :=
  ({ s.loadOp .init with seq := .settle, controller := { s.controller.forget with taken := [] } }).enterInit 0

/-- INIT (R99). -/
def execInit (s : State) : Host.Outcome State Fault Refusal := .next (runBus s.answers.length s.startInit)

/-- UPDATE starts at page 0 (R104). -/
def State.startUpdate (s : State) : State := { s.loadOp .update with seq := .pageCmd 0 .select }

/-- UPDATE (R104). -/
def execUpdate (s : State) : Host.Outcome State Fault Refusal := .next (runBus s.answers.length s.startUpdate)

/-! ## The bus transactions as instructions -/

/-- BUS_CMD `b` (R96): the command transaction of the sequencer's position. -/
def execBusCmd (b : Byte) (s : State) : Host.Outcome State Fault Refusal := .next (s.sendCommand (ctlPosAt s.seq) b)

/-- BUS_DATA `d` (R97). -/
def execBusData (d : List Byte) (s : State) : Host.Outcome State Fault Refusal := .next (s.sendSlice d)

/-- CTL_PAGE_SELECT (R104 a). -/
def execCtlPageSelect (pg : Fin 8) (s : State) : Host.Outcome State Fault Refusal :=
  .next (s.sendCommand (some (.pageSelect pg)) (pageSelectByte pg))

/-- CTL_COL_LOW (R104 b). -/
def execCtlColLow (s : State) : Host.Outcome State Fault Refusal := .next (s.sendCommand (some .colLow) 0x00)

/-- CTL_COL_HIGH (R104 b). -/
def execCtlColHigh (s : State) : Host.Outcome State Fault Refusal := .next (s.sendCommand (some .colHigh) 0x10)

/-- Entry `k` of INIT (R99, R101): `SendCmd` of its byte. -/
def State.sendEntry (k : Nat) (b : Byte) (s : State) : State := s.sendCommand (some (.initEntry k)) b

/-- INIT_SEQ_00, setting 1, display off: opcode (R101). -/
def execInitSeq00 (s : State) : Host.Outcome State Fault Refusal := .next (s.sendEntry 0 0xAE)
/-- INIT_SEQ_01, setting 2, set addressing mode: opcode (R101). -/
def execInitSeq01 (s : State) : Host.Outcome State Fault Refusal := .next (s.sendEntry 1 0x20)
/-- INIT_SEQ_02, setting 2: operand, page addressing (R101). -/
def execInitSeq02 (s : State) : Host.Outcome State Fault Refusal := .next (s.sendEntry 2 0x02)
/-- INIT_SEQ_03, setting 3, page start address: opcode (R101). -/
def execInitSeq03 (s : State) : Host.Outcome State Fault Refusal := .next (s.sendEntry 3 0xB0)
/-- INIT_SEQ_04, setting 3, column start low nibble: opcode (R101). -/
def execInitSeq04 (s : State) : Host.Outcome State Fault Refusal := .next (s.sendEntry 4 0x00)
/-- INIT_SEQ_05, setting 3, column start high nibble: opcode (R101). -/
def execInitSeq05 (s : State) : Host.Outcome State Fault Refusal := .next (s.sendEntry 5 0x10)
/-- INIT_SEQ_06, setting 4, COM output scan direction: opcode (R101). -/
def execInitSeq06 (s : State) : Host.Outcome State Fault Refusal := .next (s.sendEntry 6 0xC8)
/-- INIT_SEQ_07, setting 5, segment remap: opcode (R101). -/
def execInitSeq07 (s : State) : Host.Outcome State Fault Refusal := .next (s.sendEntry 7 0xA1)
/-- INIT_SEQ_08, setting 6, set contrast: opcode (R101). -/
def execInitSeq08 (s : State) : Host.Outcome State Fault Refusal := .next (s.sendEntry 8 0x81)
/-- INIT_SEQ_09, setting 6: operand (R101). -/
def execInitSeq09 (s : State) : Host.Outcome State Fault Refusal := .next (s.sendEntry 9 0xCF)
/-- INIT_SEQ_10, setting 7, normal display: opcode (R101). -/
def execInitSeq10 (s : State) : Host.Outcome State Fault Refusal := .next (s.sendEntry 10 0xA6)
/-- INIT_SEQ_11, setting 8, set multiplex ratio: opcode (R101). -/
def execInitSeq11 (s : State) : Host.Outcome State Fault Refusal := .next (s.sendEntry 11 0xA8)
/-- INIT_SEQ_12, setting 8: operand, 64 rows (R101). -/
def execInitSeq12 (s : State) : Host.Outcome State Fault Refusal := .next (s.sendEntry 12 0x3F)
/-- INIT_SEQ_13, setting 9, output follows RAM: opcode (R101). -/
def execInitSeq13 (s : State) : Host.Outcome State Fault Refusal := .next (s.sendEntry 13 0xA4)
/-- INIT_SEQ_14, setting 10, set display offset: opcode (R101). -/
def execInitSeq14 (s : State) : Host.Outcome State Fault Refusal := .next (s.sendEntry 14 0xD3)
/-- INIT_SEQ_15, setting 10: operand, zero (R101). -/
def execInitSeq15 (s : State) : Host.Outcome State Fault Refusal := .next (s.sendEntry 15 0x00)
/-- INIT_SEQ_16, setting 11, set clock divide ratio: opcode (R101). -/
def execInitSeq16 (s : State) : Host.Outcome State Fault Refusal := .next (s.sendEntry 16 0xD5)
/-- INIT_SEQ_17, setting 11: operand (R101). -/
def execInitSeq17 (s : State) : Host.Outcome State Fault Refusal := .next (s.sendEntry 17 0x80)
/-- INIT_SEQ_18, setting 12, set pre-charge period: opcode (R101). -/
def execInitSeq18 (s : State) : Host.Outcome State Fault Refusal := .next (s.sendEntry 18 0xD9)
/-- INIT_SEQ_19, setting 12: operand (R101). -/
def execInitSeq19 (s : State) : Host.Outcome State Fault Refusal := .next (s.sendEntry 19 0xF1)
/-- INIT_SEQ_20, setting 13, set COM pin configuration: opcode (R101). -/
def execInitSeq20 (s : State) : Host.Outcome State Fault Refusal := .next (s.sendEntry 20 0xDA)
/-- INIT_SEQ_21, setting 13: operand (R101). -/
def execInitSeq21 (s : State) : Host.Outcome State Fault Refusal := .next (s.sendEntry 21 0x12)
/-- INIT_SEQ_22, setting 14, set VCOMH deselect level: opcode (R101). -/
def execInitSeq22 (s : State) : Host.Outcome State Fault Refusal := .next (s.sendEntry 22 0xDB)
/-- INIT_SEQ_23, setting 14: operand (R101). -/
def execInitSeq23 (s : State) : Host.Outcome State Fault Refusal := .next (s.sendEntry 23 0x40)
/-- INIT_SEQ_24, setting 15, charge pump setting: opcode (R101). -/
def execInitSeq24 (s : State) : Host.Outcome State Fault Refusal := .next (s.sendEntry 24 0x8D)
/-- INIT_SEQ_25, setting 15: operand, enabled (R101). -/
def execInitSeq25 (s : State) : Host.Outcome State Fault Refusal := .next (s.sendEntry 25 0x14)
/-- INIT_SEQ_26, setting 16, display on: opcode (R101). -/
def execInitSeq26 (s : State) : Host.Outcome State Fault Refusal := .next (s.sendEntry 26 0xAF)

end Sys2Proof.Machine
end

