-- ==== Sys2Proof/Machine/Dispatch.lean ====
section
/-! DEFINITION. The meaning of every instruction: one arm per constructor of `Instr`. -/

namespace Sys2Proof.Machine

def exec (i : Instr) (s : State) : Host.Outcome State Fault Refusal :=
  match i with
  | .init => Sys2Proof.Machine.execInit s
  | .clear => Sys2Proof.Machine.execClear s
  | .update => Sys2Proof.Machine.execUpdate s
  | .drawPixel x y on => Sys2Proof.Machine.execDrawPixel x y on s
  | .drawChar x y c on => Sys2Proof.Machine.execDrawChar x y c on s
  | .drawString x y on => Sys2Proof.Machine.execDrawString x y on s
  | .reservedOp6 => Sys2Proof.Machine.execReservedOp6 s
  | .reservedOp7 => Sys2Proof.Machine.execReservedOp7 s
  | .reservedRsv7 => Sys2Proof.Machine.execReservedRsv7 s
  | .reservedRsv6 => Sys2Proof.Machine.execReservedRsv6 s
  | .reservedRsv5 => Sys2Proof.Machine.execReservedRsv5 s
  | .reservedRsv4 => Sys2Proof.Machine.execReservedRsv4 s
  | .busCmd b => Sys2Proof.Machine.execBusCmd b s
  | .busData d => Sys2Proof.Machine.execBusData d s
  | .ctlPageSelect pg => Sys2Proof.Machine.execCtlPageSelect pg s
  | .ctlColLow => Sys2Proof.Machine.execCtlColLow s
  | .ctlColHigh => Sys2Proof.Machine.execCtlColHigh s
  | .initSeq00 => Sys2Proof.Machine.execInitSeq00 s
  | .initSeq01 => Sys2Proof.Machine.execInitSeq01 s
  | .initSeq02 => Sys2Proof.Machine.execInitSeq02 s
  | .initSeq03 => Sys2Proof.Machine.execInitSeq03 s
  | .initSeq04 => Sys2Proof.Machine.execInitSeq04 s
  | .initSeq05 => Sys2Proof.Machine.execInitSeq05 s
  | .initSeq06 => Sys2Proof.Machine.execInitSeq06 s
  | .initSeq07 => Sys2Proof.Machine.execInitSeq07 s
  | .initSeq08 => Sys2Proof.Machine.execInitSeq08 s
  | .initSeq09 => Sys2Proof.Machine.execInitSeq09 s
  | .initSeq10 => Sys2Proof.Machine.execInitSeq10 s
  | .initSeq11 => Sys2Proof.Machine.execInitSeq11 s
  | .initSeq12 => Sys2Proof.Machine.execInitSeq12 s
  | .initSeq13 => Sys2Proof.Machine.execInitSeq13 s
  | .initSeq14 => Sys2Proof.Machine.execInitSeq14 s
  | .initSeq15 => Sys2Proof.Machine.execInitSeq15 s
  | .initSeq16 => Sys2Proof.Machine.execInitSeq16 s
  | .initSeq17 => Sys2Proof.Machine.execInitSeq17 s
  | .initSeq18 => Sys2Proof.Machine.execInitSeq18 s
  | .initSeq19 => Sys2Proof.Machine.execInitSeq19 s
  | .initSeq20 => Sys2Proof.Machine.execInitSeq20 s
  | .initSeq21 => Sys2Proof.Machine.execInitSeq21 s
  | .initSeq22 => Sys2Proof.Machine.execInitSeq22 s
  | .initSeq23 => Sys2Proof.Machine.execInitSeq23 s
  | .initSeq24 => Sys2Proof.Machine.execInitSeq24 s
  | .initSeq25 => Sys2Proof.Machine.execInitSeq25 s
  | .initSeq26 => Sys2Proof.Machine.execInitSeq26 s

end Sys2Proof.Machine
end

