-- ==== Sys2Proof/Machine/Fetch.lean ====
section
/-! DEFINITION. What the sequencer does next (`10_state.md` R14): take the next command when idle; make the next transaction
of INIT or UPDATE, which is an instruction of the table at its position; or make a move of its own inside CLEAR, DRAW_PIXEL,
DRAW_CHAR or DRAW_STRING. `step` (Step.lean) only carries this out.

A step from `Idle` runs a whole command (R14: "A model may take each command as one atomic step"), so the positions inside
the drawing commands are met only when a state is placed there, and the others when the transport or the text stream keeps a
command waiting. Each of them does what R14 says. -/

namespace Sys2Proof.Machine

/-! ## The sequencer's own moves -/

/-- The pixel `(gi, gj)` of the current character is set (R84). DRAW_STRING's character stands at the cursor, DRAW_CHAR's at
its origin operand. DESIGN CHOICE, log entry 27, for states placed here that no run reaches and the spec says nothing of:
an `oc` without a glyph is drawn from what `romRead` gives, and an `op` that is neither of the two is taken as
DRAW_CHAR's. -/
def State.glyphPixel (gi : Fin 5) (gj : Fin 8) (s : State) : State :=
  let l := s.latches
  let x0 := if l.op = .drawString then l.cur else l.ox
  s.setPixel (x0 + gi.val) (l.oy + gj.val) (glyphColor (romRead s.cfg l.oc gi.val) gj.val l.oon)

/-- The cursor advances, and DRAW_STRING is about to take the next byte (R88, R89). -/
def State.advanceCursor (s : State) : State :=
  { s with seq := .nextChar, latches := Latches.advance s.latches }

/-- The glyph is done: DRAW_STRING goes on to its next character, DRAW_CHAR completes (R84, R88). -/
def State.glyphDone (s : State) : State :=
  if s.latches.op = .drawString then State.advanceCursor { s with latches := Latches.restGlyph s.latches }
  else s.complete .ok

/-- `Glyph(gi, gj)` goes on, "`gj` inner and `gi` outer, both ascending" (R14). -/
def State.glyphNext (gi : Fin 5) (gj : Fin 8) (s : State) : State :=
  if hj : gj.val + 1 < 8 then { s with seq := .glyph gi ⟨gj.val + 1, hj⟩ }
  else if hi : gi.val + 1 < 5 then { s with seq := .glyph ⟨gi.val + 1, hi⟩ 0 }
  else s.glyphDone

/-- `NextChar` (R88): the next byte of the text stream is taken, if there is one. -/
def State.takeChar (s : State) : State :=
  match s.text with
  | [] => s
  | b :: rest =>
    let t := { s with text := rest, latches := { s.latches with oc := b } }
    if b = 0 then t.complete .ok
    else if hasGlyph b then { t with seq := .glyph 0 0 }
    else t.advanceCursor

/-- `Clearing(ci)` (R71): `FB[ci] <- 0x00`, then `ci + 1`. -/
def State.clearNext (ci : Fin 1024) (s : State) : State :=
  let t := { s with fb := s.fb.write s.cfg ci.val 0 }
  if h : ci.val + 1 < 1024 then { t with seq := .clearing ⟨ci.val + 1, h⟩ } else t.complete .ok

/-- One move of the sequencer at a position that is neither `Idle` nor a bus transaction (R14). -/
def State.innerStep (s : State) : State :=
  match s.seq with
  | .settle => s.enterInit 0
  | .clearing ci => s.clearNext ci
  | .pixel => (s.setPixel s.latches.ox s.latches.oy s.latches.oon).complete .ok
  | .glyph gi gj => (s.glyphPixel gi gj).glyphNext gi gj
  | .nextChar => s.takeChar
  | _ => s

/-! ## What comes next -/

/-- What the sequencer does next. -/
inductive Fetched
  /-- idle, and the host presents no command: the block waits (R23) -/
  | nothing
  /-- this instruction runs, on this state -/
  | run (i : Instr) (s : State)
  /-- a move of the sequencer's own, to this state -/
  | inner (s : State)
  /-- a position R14 does not have -/
  | lost
deriving DecidableEq, Repr

/-- The instruction of the next step. -/
def State.fetch (s : State) : Fetched :=
  match s.seq with
  | .idle =>
    match s.cmds with
    | [] => .nothing
    | c :: rest => .run (decodeCmd c.word) (s.accept c rest)
  | .initStep is =>
    match s.cfg.initSeq[is]? with
    | some b => .run (ctlInstr (.initEntry is) b) s
    | none => .lost
  | .pageCmd pg k => .run (ctlInstr (pagePos pg k) (pageByte s.cfg pg k)) s
  | .pageData pg => .run (.busData (s.slice pg)) s
  | _ => .inner s.innerStep

/-- The transaction that stands at the bus port while the transport has not answered: its payload (R95). -/
def State.offered (s : State) : Option (List Byte) :=
  match s.seq with
  | .initStep is => (s.cfg.initSeq[is]?).map cmdPayload
  | .pageCmd pg k => some (cmdPayload (pageByte s.cfg pg k))
  | .pageData pg => some (dataPayload (s.slice pg))
  | _ => none

/-! ## Placing an instruction where the next step takes it from (log entry 20) -/

/-- The bytes `d` stand in `FB` from address 0 on. -/
def placeBytes (c : Cfg) (d : List Byte) (m : Memory) : Memory :=
  d.zipIdx.foldl (fun m p => m.write c p.2 p.1) m

/-- The state with `code` standing where the next step takes its instruction from. A host word stands at the command port
of an idle block, with the text stream `[0x00]` (its operand bytes zero); a controller byte is the `Cfg` byte of its
position, with the sequencer there; a command transaction of any byte is the entry after the table's 27; a data transaction
is the slice of page 0. -/
def State.place (s : State) : Code → State
  | .cmd w => { s with seq := .idle, cmds := ⟨w, [0]⟩ :: s.cmds.tail }
  | .ctl (.initEntry k) b =>
    { s with
      seq := .initStep k
      cfg := { s.cfg with initSeq := if s.cfg.initSeq[k]? = some b then s.cfg.initSeq else Config.initSeqDefault } }
  | .ctl (.pageSelect pg) b =>
    { s with seq := .pageCmd pg .select, cfg := { s.cfg with pageBase := b - BitVec.ofNat 8 pg.val } }
  | .ctl .colLow b => { s with seq := .pageCmd 0 .colLow, cfg := { s.cfg with colLow := b } }
  | .ctl .colHigh b => { s with seq := .pageCmd 0 .colHigh, cfg := { s.cfg with colHigh := b } }
  | .bus payload =>
    match decodeBus payload with
    | .ok (.busData d) => { s with seq := .pageData 0, fb := placeBytes s.cfg d s.fb }
    | .ok (.busCmd b) =>
      { s with seq := .initStep 27, cfg := { s.cfg with initSeq := Config.initSeqDefault ++ [b] } }
    | _ => s

end Sys2Proof.Machine
end

