-- ==== Sys2Proof/Machine/Step.lean ====
section
/-! DEFINITION. One step of the machine. -/

namespace Sys2Proof.Machine

/-- One step: the instruction that comes next runs; an idle block without a command waits. -/
def step (s : State) : Host.Outcome State Fault Refusal :=
  match s.fetch with
  | .nothing => .next s
  | .run i t => exec i t
  | .inner t => .next t
  | .lost => .fault .noSuchPosition

/-- `s` with the table word `w` of `nbits` bits standing where the next step takes its instruction from. -/
def State.withFetchWord (s : State) (nbits w : Nat) : State := s.place (codeOfTableWord nbits w)

end Sys2Proof.Machine
end

