-- ==== Sys2Proof/Safety.lean ====
section
/-! DEFINITION. What counts as a legal state, in the spec's terms: the positions R14 has, the canonical framebuffer, the two
transactions R58 has, and a panel of which no more is said than R22 says. Every step keeps it. -/

namespace Sys2Proof.Machine

/-- A transaction of the block (R58, R95): to `DEV_ADDR`, either `[0x00, b]` or `[0x40]` and 128 data bytes; and a fault
carries a value of `FAULT_INFO` (R8). -/
def BusEvent.legal (c : Cfg) (e : BusEvent) : Prop :=
  e.addr = Config.devAddr ∧
    ((∃ b, e.payload = cmdPayload b) ∨ ∃ d, d.length = 128 ∧ e.payload = dataPayload d) ∧
    ∀ x, e.answer = .fault x → c.faultInfo.has x

/-- Nothing is said of the controller's pointers and of the panel: they hold a free value. -/
def Controller.unsaid (k : Controller) : Prop := ∃ n, k.regs = Config.freeController n

/-- The panel shows the framebuffer's pages below `n`. -/
def State.pagesShown (s : State) (n : Nat) : Prop := ∀ p : Fin 8, p.val < n → s.controller.page p = s.slice p.val

/-- What holds at each position: R14's range of `is`; the entries the controller has taken (R124); the slice that is read
before it is sent (R104); and, where something is said of the panel, the pointers UPDATE has set and the pages it has
sent (R22). -/
def State.positionLegal (s : State) : Prop :=
  match s.seq with
  | .settle => s.controller.taken = [] ∧ s.controller.unsaid
  | .initStep is =>
    is < s.cfg.initSeq.length ∧ s.controller.taken = s.cfg.initSeq.take is ∧ s.controller.unsaid
  | .pageCmd pg .select => s.panelSaid = true → s.pagesShown pg.val
  | .pageCmd pg .colLow => s.panelSaid = true → s.pagesShown pg.val ∧ s.controller.regs.pagePtr = pg
  | .pageCmd pg .colHigh =>
    s.panelSaid = true →
      s.pagesShown pg.val ∧ s.controller.regs.pagePtr = pg ∧ s.controller.regs.colLow = 0
  | .pageData pg =>
    s.latches.col = 127 ∧
      (s.panelSaid = true →
        s.pagesShown pg.val ∧ s.controller.regs.pagePtr = pg ∧ s.controller.regs.colLow = 0 ∧
          s.controller.regs.colHigh = 0)
  | .nextChar => s.latches.op = .drawString
  | .idle | .clearing _ | .pixel | .glyph _ _ => True

/-- The legal states. -/
structure State.Legal (s : State) : Prop where
  /-- `Cfg` is well-formed (R8) -/
  cfg : s.cfg.wf
  /-- `FB` is in canonical form, and no cell lies outside 0 to 1023 (R36) -/
  fb : s.fb.wf s.cfg
  /-- the position is one of R14's, with what holds there -/
  position : s.positionLegal
  /-- "When `ctrl_state = Uninitialized` nothing is said of `PANEL`" (R22), nor with a `Cfg` that is not faithful (U13) -/
  unsaid : s.panelSaid = false → s.controller.unsaid
  /-- the block emits no other transactions (R58) -/
  trace : ∀ e ∈ s.trace, e.legal s.cfg
  /-- the transport's faults carry values of `FAULT_INFO` (R95) -/
  answers : ∀ e, .fault e ∈ s.answers → s.cfg.faultInfo.has e
  /-- so do the completions (R56) -/
  completions : ∀ e, .busFault e ∈ s.completions → s.cfg.faultInfo.has e

/-! ## The terms the statements use -/

/-- The answers of a transport that acknowledges the next `n` transactions. -/
def acks (n : Nat) : List BusAnswer := List.replicate n .ack

/-- Acknowledged transactions to the display controller with these payloads, as the bus trace records them. -/
def ackedEvents (payloads : List (List Byte)) : List BusEvent := payloads.map fun p => ⟨Config.devAddr, p, .ack⟩

/-- A faulted transaction to the display controller. -/
def faultedEvent (payload : List Byte) (e : FaultInfo) : BusEvent := ⟨Config.devAddr, payload, .fault e⟩

/-- The payloads of INIT's transactions (R99). -/
def initPayloads (c : Cfg) : List (List Byte) := c.initSeq.map cmdPayload

/-- The payloads of UPDATE's transactions (R104). -/
def State.updatePayloads (s : State) : List (List Byte) :=
  (List.finRange 8).flatMap fun pg =>
    [cmdPayload (s.cfg.pageBase + BitVec.ofNat 8 pg.val), cmdPayload s.cfg.colLow, cmdPayload s.cfg.colHigh,
      dataPayload (s.slice pg.val)]

end Sys2Proof.Machine
end

