-- ==== Sys2Proof/Certificates/Slice0/Obligations.lean ====
section
/-! DEFINITION. The statements for the provers, from the spec's numbered rules. `State.complete` is what
`Obligations.CompletionDeliversOneStatusAndIdles` says; the free values it leaves in the operand latches
(`Config.freeLatches`, log entry 10) are used by no statement beyond naming them. -/

open Sys2Proof Sys2Proof.Machine

/-! ## Reset, waiting, and what a step runs -/

/-- R140: after reset `FB` holds `FB_RESET`, whatever that is, `ctrl_state` is `Uninitialized`, `seq` is `Idle`, no
completion is pending and no transaction has been emitted. For every configuration, the default one among them. -/
def Obligations.ResetLeavesTheUnspecifiedFramebuffer : Prop :=
  State.reset = State.resetWith Config.defaultCfg ∧
  ∀ c : Cfg,
    (∀ (a : Nat) (h : a < 1024), (State.resetWith c).fbByte a = c.fbReset[a]) ∧
    (State.resetWith c).ctrl = .uninitialized ∧ (State.resetWith c).seq = .idle ∧
    (State.resetWith c).completions = [] ∧ (State.resetWith c).trace = [] ∧ (State.resetWith c).cfg = c

/-- R56, R14: completing a command delivers exactly one completion and leaves `seq = Idle`; the framebuffer, `ctrl_state`,
the ports, the trace and the controller are as they were. The statuses are `OK` = 0b00, `BUS_FAULT` = 0b01 and
`ILLEGAL` = 0b10; 0b11 is never produced. What the working registers hold is a free value (log entry 10). -/
def Obligations.CompletionDeliversOneStatusAndIdles : Prop :=
  (∀ (s : State) (r : Completion),
    (s.complete r).completions = s.completions ++ [r] ∧ (s.complete r).seq = .idle ∧ (s.complete r).fb = s.fb ∧
    (s.complete r).ctrl = s.ctrl ∧ (s.complete r).cfg = s.cfg ∧ (s.complete r).cmds = s.cmds ∧
    (s.complete r).text = s.text ∧ (s.complete r).answers = s.answers ∧ (s.complete r).trace = s.trace ∧
    (s.complete r).controller = s.controller) ∧
  Completion.ok.status = 0b00 ∧ (∀ e, (Completion.busFault e).status = 0b01) ∧ Completion.illegal.status = 0b10 ∧
  ∀ r : Completion, r.status ≠ 0b11

/-- R23: an idle block to which no command is presented waits. That a step then changes nothing is the model's choice (log
entry 3). -/
def Obligations.IdleBlockWithoutCommandWaits : Prop :=
  ∀ s : State, s.seq = .idle → s.cmds = [] → step s = .next s

/-- R50, R14: the step of an idle block to which a command is presented takes that command and runs the instruction its word
decodes to. Any other position accepts no command. The model's choices in it: that a whole command is one step (log
entry 1), and that the text bytes arrive with their command and replace what stood at the text port (`text := c.text`,
log entry 4). -/
def Obligations.StepRunsThePresentedCommand : Prop :=
  (∀ (s : State) (c : HostCommand) (rest : List HostCommand) (i : Instr),
    s.seq = .idle → s.cmds = c :: rest → decode (.cmd c.word) = .ok i →
      step s = exec i { s with cmds := rest, text := c.text }) ∧
  (∀ s t : State, s.seq ≠ .idle → step s = .next t → t.cmds = s.cmds)

/-- R14, R99, R104: at a bus position the step runs the instruction of that position: entry `k` of `INIT_SEQ` as its table
row where the table has the byte and as BUS_CMD of the byte where it has not; the three commands of a page; and
BUS_DATA with the page's slice. A controller byte is identified by its position, not by its value. Which row runs is the
model's choice: the rows' bytes are PRESUMED (log entry 6), and a byte that is not its row's runs as BUS_CMD (DEDUCED,
log entry 18). -/
def Obligations.StepRunsTheTransactionOfItsPosition : Prop :=
  ∀ s : State,
    (∀ (k : Nat) (i : Instr) (b : Byte), s.seq = .initStep k → s.cfg.initSeq[k]? = some b →
      decode (.ctl (.initEntry k) b) = .ok i → step s = exec i s) ∧
    (∀ (k : Nat) (b : Byte), s.seq = .initStep k → s.cfg.initSeq[k]? = some b →
      (∀ i, decode (.ctl (.initEntry k) b) ≠ .ok i) → step s = exec (.busCmd b) s) ∧
    (∀ pg : Fin 8, s.seq = .pageCmd pg .select →
      step s = if s.cfg.pageBase = 0xB0#8 then exec (.ctlPageSelect pg) s
        else exec (.busCmd (s.cfg.pageBase + BitVec.ofNat 8 pg.val)) s) ∧
    (∀ pg : Fin 8, s.seq = .pageCmd pg .colLow →
      step s = if s.cfg.colLow = 0x00#8 then exec .ctlColLow s else exec (.busCmd s.cfg.colLow) s) ∧
    (∀ pg : Fin 8, s.seq = .pageCmd pg .colHigh →
      step s = if s.cfg.colHigh = 0x10#8 then exec .ctlColHigh s else exec (.busCmd s.cfg.colHigh) s) ∧
    (∀ pg : Fin 8, s.seq = .pageData pg → step s = exec (.busData (s.slice pg)) s)

/-! ## Encodings -/

/-- Words of every family, written from the spec's encodings, decode to what they stand for (R51 to R53, R58, R59, R101).
The controller bytes `0xB7`, `0x00`, `0x10` and `0xAF` are the spec's defaults from general knowledge (PRESUMED, log
entry 6), and that a payload of another length is rejected is the model's choice (DEDUCED, log entry 18). -/
def Obligations.WordsOfEveryFamilyDecodeAsWritten : Prop :=
  decode (.cmd 0x000000000000) = .ok .init ∧ decode (.cmd 0xFFFFFFFFFF09) = .ok .clear ∧
  decode (.cmd 0x12345678AB0A) = .ok .update ∧ decode (.cmd 0x000A0005000B) = .ok (.drawPixel 5 10 true) ∧
  decode (.cmd 0x80008000000B) = .ok (.drawPixel (-32768) (-32768) true) ∧
  decode (.cmd 0xFFFDFFFE410C) = .ok (.drawChar (-2) (-3) 0x41 true) ∧
  decode (.cmd 0x001C006E000D) = .ok (.drawString 110 28 true) ∧ decode (.cmd 0x000000000006) = .ok .reservedOp6 ∧
  decode (.cmd 0x0000000000F3) = .ok .reservedRsv7 ∧ decode (.cmd 0x000000000010) = .ok .reservedRsv4 ∧
  decode (.bus [0x00, 0xAE]) = .ok (.busCmd 0xAE) ∧ decode (.bus [0x40, 0xAE]) = .error .wrongLength ∧
  decode (.bus (0x40 :: List.replicate 128 0x5A)) = .ok (.busData (List.replicate 128 0x5A)) ∧
  decode (.ctl .colLow 0x00) = .ok .ctlColLow ∧ decode (.ctl .colHigh 0x10) = .ok .ctlColHigh ∧
  decode (.ctl (.pageSelect 7) 0xB7) = .ok (.ctlPageSelect 7) ∧
  decode (.ctl (.initEntry 26) 0xAF) = .ok .initSeq26 ∧ decode (.ctl (.initEntry 15) 0x00) = .ok .initSeq15

/-- R51, R53: the operands of a legal word are its fields, read as the spec says, with no scaling; every coordinate that
can be expressed lies in −32768 to 32767. -/
def Obligations.OperandsAreTheFieldsOfTheWord : Prop :=
  ∀ w : CmdWord, w.extractLsb' 4 4 = 0 →
    (w.extractLsb' 0 3 = 0 → decodeCmd w = .init) ∧
    (w.extractLsb' 0 3 = 1 → decodeCmd w = .clear) ∧
    (w.extractLsb' 0 3 = 2 → decodeCmd w = .update) ∧
    (w.extractLsb' 0 3 = 3 →
      decodeCmd w = .drawPixel (w.extractLsb' 16 16).toInt (w.extractLsb' 32 16).toInt (w.getLsbD 3)) ∧
    (w.extractLsb' 0 3 = 4 →
      decodeCmd w =
        .drawChar (w.extractLsb' 16 16).toInt (w.extractLsb' 32 16).toInt (w.extractLsb' 8 8) (w.getLsbD 3)) ∧
    (w.extractLsb' 0 3 = 5 →
      decodeCmd w = .drawString (w.extractLsb' 16 16).toInt (w.extractLsb' 32 16).toInt (w.getLsbD 3)) ∧
    WellFormed (decodeCmd w)

/-- R54: fields a command does not use are ignored, and the canonical encoding has zero in them. -/
def Obligations.UnusedFieldsAreIgnored : Prop :=
  (∀ w w' : CmdWord, w.extractLsb' 0 3 = w'.extractLsb' 0 3 → w.extractLsb' 4 4 = w'.extractLsb' 4 4 →
    ((w.extractLsb' 0 3).toNat < 3 → decodeCmd w = decodeCmd w') ∧
    ((w.extractLsb' 0 3 = 3 ∨ w.extractLsb' 0 3 = 5) → w.extractLsb' 16 16 = w'.extractLsb' 16 16 →
      w.extractLsb' 32 16 = w'.extractLsb' 32 16 → w.getLsbD 3 = w'.getLsbD 3 → decodeCmd w = decodeCmd w')) ∧
  encode .init = .cmd 0 ∧ encode .clear = .cmd 1 ∧ encode .update = .cmd 2 ∧
  (∀ (x y : Int) (on : Bool), ∃ w, encode (.drawPixel x y on) = .cmd w ∧ w.extractLsb' 8 8 = 0) ∧
  (∀ (x y : Int) (on : Bool), ∃ w, encode (.drawString x y on) = .cmd w ∧ w.extractLsb' 8 8 = 0)

/-- R55, R122: a word is illegal exactly if `CW[2:0]` is 0b110 or 0b111 or `CW[7:4] ≠ 0`; it completes `ILLEGAL` with no
other effect on the block (of the working registers nothing is said here); every other word is one of the six commands. -/
def Obligations.IllegalWordsCompleteIllegalAndOthersAreCommands : Prop :=
  ∀ (w : CmdWord) (s : State),
    ((w.extractLsb' 0 3 = 6 ∨ w.extractLsb' 0 3 = 7 ∨ w.extractLsb' 4 4 ≠ 0) →
      ∃ l : Latches, exec (decodeCmd w) s = .next { s with completions := s.completions ++ [.illegal], latches := l }) ∧
    (¬ (w.extractLsb' 0 3 = 6 ∨ w.extractLsb' 0 3 = 7 ∨ w.extractLsb' 4 4 ≠ 0) →
      decodeCmd w = .init ∨ decodeCmd w = .clear ∨ decodeCmd w = .update ∨ (∃ x y on, decodeCmd w = .drawPixel x y on) ∨
      (∃ x y c on, decodeCmd w = .drawChar x y c on) ∨ ∃ x y on, decodeCmd w = .drawString x y on)

/-- R122: each of the six illegal rows completes `ILLEGAL`; `FB`, `ctrl_state` and the bus are untouched, the text port is
not read, `seq` stays, and the working registers stay too (that is the model's choice, log entry 24). -/
def Obligations.ReservedRowsCompleteIllegal : Prop :=
  ∀ i ∈ [Instr.reservedOp6, .reservedOp7, .reservedRsv7, .reservedRsv6, .reservedRsv5, .reservedRsv4], ∀ s : State,
    exec i s = .next { s with completions := s.completions ++ [.illegal] }

/-- Decode and encode agree: every well-formed instruction of the table, with every operand its encoding admits, is what
its word decodes to. -/
def Obligations.DecodingAnEncodingGivesTheInstruction : Prop :=
  ∀ i : Instr, WellFormed i → decode (encode i) = .ok i

/-- R58: the two transaction kinds are told apart by the first payload byte alone, and the length follows from the kind.
That a payload is an instruction exactly if it is `[0x00, b]` or `[0x40]` and 128 bytes, every other payload being
refused, is the model's choice (DEDUCED, log entry 18). -/
def Obligations.PayloadKindFollowsFromTheControlByte : Prop :=
  ∀ (p : List Byte) (i : Instr), decode (.bus p) = .ok i ↔
    (∃ b, p = [0x00, b] ∧ i = .busCmd b) ∨ ∃ d, d.length = 128 ∧ p = 0x40 :: d ∧ i = .busData d

/-! ## The framebuffer commands -/

/-- R30: pixel `(x, y)` is bit `y mod 8` of `FB[x + (y div 8)·128]`, and the pixel map is a bijection from the 8192 screen
coordinates onto the 1024 × 8 (address, bit) pairs, with the inverse `(a, b) ↦ (a mod 128, (a div 128)·8 + b)`. -/
def Obligations.PixelMapIsABijection : Prop :=
  (∀ x y : Nat, x < 128 → y < 64 → pixelAddr x y < 1024 ∧ bitOf y < 8 ∧
    pixelAddr x y % 128 = x ∧ pixelAddr x y / 128 * 8 + bitOf y = y) ∧
  (∀ a b : Nat, a < 1024 → b < 8 → a % 128 < 128 ∧ a / 128 * 8 + b < 64 ∧
    pixelAddr (a % 128) (a / 128 * 8 + b) = a ∧ bitOf (a / 128 * 8 + b) = b) ∧
  ∀ (s : State) (x y : Nat), s.pixel x y = (s.fbByte (x + y / 8 * 128)).getLsbD (y % 8)

/-- R71: CLEAR, canonical word `0x000000000001`, completes `OK` from every state; every byte of `FB` is `0x00`, so all
8192 pixels are off; nothing else changes, and the framebuffer stays in canonical form. -/
def Obligations.ClearZeroesTheFramebuffer : Prop :=
  encode .clear = .cmd 0x000000000001 ∧
  ∀ s : State, ∃ m : Memory, exec .clear s = .next (State.complete .ok { s with fb := m }) ∧
    (∀ a : Nat, a < 1024 → m.read s.cfg a = 0) ∧ (∀ x y : Nat, x < 128 → y < 64 → m.pixel s.cfg x y = false) ∧
    (s.fb.wf s.cfg → m.wf s.cfg)

/-- R72: DRAW_PIXEL, canonical word `y ‖ x ‖ 0x00 ‖ 0b0000 ‖ on ‖ 0b011`, completes `OK` from every state. On the screen
it sets or clears its bit in its byte; off the screen the framebuffer is what it was. Every other byte and pixel is
unchanged, and so is everything else. -/
def Obligations.DrawPixelWritesOneBit : Prop :=
  ∀ (x y : Int) (on : Bool),
    encode (.drawPixel x y on) =
      .cmd (BitVec.ofInt 16 y ++ BitVec.ofInt 16 x ++ 0x00#8 ++ 0b0000#4 ++ BitVec.ofBool on ++ 0b011#3) ∧
    ∀ s : State, ∃ m : Memory,
    exec (.drawPixel x y on) s = .next (State.complete .ok { s with fb := m }) ∧
    (¬ (0 ≤ x ∧ x < 128 ∧ 0 ≤ y ∧ y < 64) → m = s.fb) ∧
    (∀ u v : Nat, x = u → y = v → u < 128 → v < 64 →
      m.read s.cfg (u + v / 8 * 128) =
        (if on then s.fbByte (u + v / 8 * 128) ||| 1#8 <<< (v % 8)
          else s.fbByte (u + v / 8 * 128) &&& ~~~(1#8 <<< (v % 8))) ∧
      ∀ a : Nat, a ≠ u + v / 8 * 128 → m.read s.cfg a = s.fbByte a) ∧
    (∀ x' y' : Nat, x' < 128 → y' < 64 → m.pixel s.cfg x' y' = if x = x' ∧ y = y' then on else s.pixel x' y')

/-- R73: the laws of `SetPixel`: (a) the pixel set reads back; (b) every other pixel is unchanged; (c) off the screen the
whole framebuffer is unchanged; (d) of two calls on one pixel the later wins; (d, e) calls on pairwise different
pixels may be made in any order. -/
def Obligations.SetPixelLaws : Prop :=
  ∀ (c : Cfg) (m : Memory),
    (∀ (x y : Int) (on : Bool) (x' y' : Nat), x' < 128 → y' < 64 →
      (x = x' ∧ y = y' → (setPixel c x y on m).pixel c x' y' = on) ∧
      (¬ (x = x' ∧ y = y') → (setPixel c x y on m).pixel c x' y' = m.pixel c x' y')) ∧
    (∀ (x y : Int) (on : Bool), ¬ (0 ≤ x ∧ x < 128 ∧ 0 ≤ y ∧ y < 64) → setPixel c x y on m = m) ∧
    (∀ (x y : Int) (on on' : Bool), ∀ a : Nat, a < 1024 →
      (setPixel c x y on' (setPixel c x y on m)).read c a = (setPixel c x y on' m).read c a) ∧
    (∀ ps qs : List (Int × Int × Bool), ps.Perm qs → (ps.map fun p => (p.1, p.2.1)).Nodup → ∀ a : Nat, a < 1024 →
      (ps.foldl (fun m p => setPixel c p.1 p.2.1 p.2.2 m) m).read c a =
        (qs.foldl (fun m p => setPixel c p.1 p.2.1 p.2.2 m) m).read c a)

/-! ## The rasterizer -/

/-- R84: DRAW_CHAR, canonical word `y ‖ x ‖ c ‖ 0b0000 ‖ on ‖ 0b100`, completes `OK` from every state. A code outside 32
to 126 changes nothing. Otherwise every pixel of the screen inside the 5×8 cell takes the color where its glyph bit is
set and the inverse where it is not, and every other pixel and everything else is unchanged. -/
def Obligations.DrawCharPaintsItsWholeCell : Prop :=
  ∀ (x y : Int) (ch : Byte) (color : Bool),
    encode (.drawChar x y ch color) =
      .cmd (BitVec.ofInt 16 y ++ BitVec.ofInt 16 x ++ ch ++ 0b0000#4 ++ BitVec.ofBool color ++ 0b100#3) ∧
    ∀ s : State,
    (¬ (32 ≤ ch.toNat ∧ ch.toNat ≤ 126) → exec (.drawChar x y ch color) s = .next (s.complete .ok)) ∧
    (32 ≤ ch.toNat ∧ ch.toNat ≤ 126 → ∃ m : Memory,
      exec (.drawChar x y ch color) s = .next (State.complete .ok { s with fb := m }) ∧
      (∀ i j x' y' : Nat, i < 5 → j < 8 → x' < 128 → y' < 64 → (x' : Int) = x + i → (y' : Int) = y + j →
        m.pixel s.cfg x' y' = if (romRead s.cfg ch i).getLsbD j then color else !color) ∧
      (∀ x' y' : Nat, x' < 128 → y' < 64 → ¬ (x ≤ x' ∧ (x' : Int) < x + 5 ∧ y ≤ y' ∧ (y' : Int) < y + 8) →
        m.pixel s.cfg x' y' = s.pixel x' y'))

/-- R80: `RomRead(c, i)` is byte `(c − 32)·5 + i` of the ROM, an address in 0 to 474 for every code with a glyph. -/
def Obligations.RomReadAddressesTheGlyphTable : Prop :=
  ∀ (c : Cfg) (ch : Byte) (i : Nat), 32 ≤ ch.toNat → ch.toNat ≤ 126 → i < 5 →
    ∃ h : (ch.toNat - 32) * 5 + i < 475, romRead c ch i = c.glyph[(ch.toNat - 32) * 5 + i]

/-- R85: a glyph in one page replaces whole bytes: the glyph bytes with color 1, their complements with color 0. -/
def Obligations.AlignedGlyphReplacesWholeBytes : Prop :=
  ∀ (x : Int) (p : Nat) (ch : Byte) (color : Bool) (s : State), 32 ≤ ch.toNat → ch.toNat ≤ 126 → p < 8 →
    ∃ m : Memory, exec (.drawChar x (p * 8 : Nat) ch color) s = .next (State.complete .ok { s with fb := m }) ∧
      ∀ i x' : Nat, i < 5 → x' < 128 → (x' : Int) = x + i →
        m.read s.cfg (x' + p * 128) = if color then romRead s.cfg ch i else ~~~(romRead s.cfg ch i)

/-- R86: the closed form with clipping, bit by bit: bit `b` of byte `(x + i) + 128·p` is bit `8p + b − y` of `w_i` when
that is a row of the cell, and is unchanged otherwise. Nothing wraps to another edge or page. -/
def Obligations.ClippedGlyphClosedForm : Prop :=
  ∀ (x y : Int) (ch : Byte) (color : Bool) (s : State), 32 ≤ ch.toNat → ch.toNat ≤ 126 →
    ∃ m : Memory, exec (.drawChar x y ch color) s = .next (State.complete .ok { s with fb := m }) ∧
      ∀ u p b : Nat, u < 128 → p < 8 → b < 8 →
        (∀ i j : Nat, i < 5 → j < 8 → (u : Int) = x + i → ((8 * p + b : Nat) : Int) = y + j →
          (m.read s.cfg (u + p * 128)).getLsbD b =
            (if color then romRead s.cfg ch i else ~~~(romRead s.cfg ch i)).getLsbD j) ∧
        ((∀ i j : Nat, i < 5 → j < 8 → ¬ ((u : Int) = x + i ∧ ((8 * p + b : Nat) : Int) = y + j)) →
          (m.read s.cfg (u + p * 128)).getLsbD b = (s.fbByte (u + p * 128)).getLsbD b)

/-- R87: on the pixels of its cell the glyph drawn with color 0 is the complement of the glyph drawn with color 1;
elsewhere the two agree; and drawing a glyph twice is drawing it once. -/
def Obligations.GlyphInverseLaw : Prop :=
  ∀ (x y : Int) (ch : Byte) (s : State), 32 ≤ ch.toNat → ch.toNat ≤ 126 →
    ∃ m0 m1 : Memory, exec (.drawChar x y ch false) s = .next (State.complete .ok { s with fb := m0 }) ∧
      exec (.drawChar x y ch true) s = .next (State.complete .ok { s with fb := m1 }) ∧
      (∀ x' y' : Nat, x' < 128 → y' < 64 →
        m0.pixel s.cfg x' y' =
          if x ≤ x' ∧ (x' : Int) < x + 5 ∧ y ≤ y' ∧ (y' : Int) < y + 8 then !(m1.pixel s.cfg x' y')
          else m1.pixel s.cfg x' y') ∧
      (∀ color : Bool, ∃ m2 : Memory,
        exec (.drawChar x y ch color) { s with fb := if color then m1 else m0 } =
          .next (State.complete .ok { s with fb := m2 }) ∧
        ∀ a : Nat, a < 1024 → m2.read s.cfg a = (if color then m1 else m0).read s.cfg a)

/-- R88, R91: DRAW_STRING, canonical word `y ‖ x ‖ 0x00 ‖ 0b0000 ‖ on ‖ 0b101`, completes `OK` from every state whose text
stream has a `0x00`: it takes the bytes through the first `0x00` and no more, and the framebuffer is that of drawing
character `k` at `(x + 6k, y)`, in order. Everything else is unchanged. -/
def Obligations.DrawStringDrawsItsCharactersSixApart : Prop :=
  ∀ (x y : Int) (on : Bool),
    encode (.drawString x y on) =
      .cmd (BitVec.ofInt 16 y ++ BitVec.ofInt 16 x ++ 0x00#8 ++ 0b0000#4 ++ BitVec.ofBool on ++ 0b101#3) ∧
    ∀ (t rest : List Byte) (s : State), s.text = t ++ 0 :: rest → (∀ b ∈ t, b ≠ 0) →
    exec (.drawString x y on) s =
      .next (State.complete .ok
        { s with
          text := rest
          fb := t.zipIdx.foldl (fun m p => drawChar s.cfg (x + (6 * p.2 : Nat)) y p.1 on m) s.fb })

/-- R88, R89, R91: the picture of a string: a pixel in the cell of character `k` at `(x + 6k, y)`, where that character
has a glyph, shows the glyph; every other pixel keeps its value, the spacing columns and the cells of unsupported
characters among them. -/
def Obligations.StringPictureAndSpacingColumns : Prop :=
  ∀ (x y : Int) (on : Bool) (t rest : List Byte) (s : State), s.text = t ++ 0 :: rest → (∀ b ∈ t, b ≠ 0) →
    ∃ m : Memory, exec (.drawString x y on) s = .next (State.complete .ok { s with text := rest, fb := m }) ∧
      ∀ x' y' : Nat, x' < 128 → y' < 64 →
        (∀ (k : Nat) (ch : Byte) (i j : Nat), t[k]? = some ch → 32 ≤ ch.toNat → ch.toNat ≤ 126 → i < 5 → j < 8 →
          (x' : Int) = x + (6 * k + i : Nat) → (y' : Int) = y + j →
          m.pixel s.cfg x' y' = if (romRead s.cfg ch i).getLsbD j then on else !on) ∧
        ((∀ (k : Nat) (ch : Byte) (i j : Nat), t[k]? = some ch → 32 ≤ ch.toNat → ch.toNat ≤ 126 → i < 5 → j < 8 →
          ¬ ((x' : Int) = x + (6 * k + i : Nat) ∧ (y' : Int) = y + j)) →
          m.pixel s.cfg x' y' = s.pixel x' y')

/-- R57, U7: a text stream without `0x00` leaves DRAW_STRING at `NextChar` with no completion delivered; the characters
offered are drawn; and every further step, as long as no byte is offered, changes nothing, so no command after it is
taken. -/
def Obligations.UnterminatedTextNeverCompletes : Prop :=
  ∀ (x y : Int) (on : Bool) (s : State), (∀ b ∈ s.text, b ≠ 0) →
    ∃ t : State, exec (.drawString x y on) s = .next t ∧ t.seq = .nextChar ∧ t.text = [] ∧
      t.completions = s.completions ∧ t.cmds = s.cmds ∧
      t.fb = s.text.zipIdx.foldl (fun m p => drawChar s.cfg (x + (6 * p.2 : Nat)) y p.1 on m) s.fb ∧ step t = .next t

/-! ## The bus transactions as instructions -/

/-- R96: BUS_CMD `b` is one transaction `[0x00, b]` to `0x3C`, at every position of INIT and UPDATE that sends a command.
Acknowledged, the sequencer goes to the next position (R14); entry `is` completes INIT when it is the last (R99).
Faulted, it raises `BusFault(e)`. The model's choices: what it does at `Idle` and at other positions that send no command
(log entry 17), and `col`, which has run to 127 when the data position is entered (DEDUCED, log entry 11). -/
def Obligations.BusCmdSendsOneCommandTransaction : Prop :=
  (∀ (b : Byte) (e : FaultInfo) (rest : List BusAnswer) (s : State), s.answers = .fault e :: rest →
    ∃ (k : Controller) (c : CtrlState),
      ((∀ is, s.seq ≠ .initStep is) → c = s.ctrl) ∧ (∀ is, s.seq = .initStep is → c = .uninitialized) ∧
      exec (.busCmd b) s = .next (State.complete (.busFault e)
        { s with answers := rest, trace := s.trace ++ [faultedEvent [0x00, b] e], controller := k, ctrl := c })) ∧
  ∀ (b : Byte) (rest : List BusAnswer) (s : State), s.answers = .ack :: rest →
    (∀ is, s.seq = .initStep is → is + 1 < s.cfg.initSeq.length → ∃ k : Controller, exec (.busCmd b) s = .next
      { s with answers := rest, trace := s.trace ++ ackedEvents [[0x00, b]], controller := k, seq := .initStep (is + 1) }) ∧
    (∀ is, s.seq = .initStep is → s.cfg.initSeq.length ≤ is + 1 → ∃ k : Controller, exec (.busCmd b) s = .next
      (State.complete .ok
        { s with
          answers := rest, trace := s.trace ++ ackedEvents [[0x00, b]], controller := k, ctrl := .ready })) ∧
    (∀ pg : Fin 8, s.seq = .pageCmd pg .select → ∃ k : Controller, exec (.busCmd b) s = .next
      { s with
        answers := rest, trace := s.trace ++ ackedEvents [[0x00, b]], controller := k, seq := .pageCmd pg .colLow }) ∧
    (∀ pg : Fin 8, s.seq = .pageCmd pg .colLow → ∃ k : Controller, exec (.busCmd b) s = .next
      { s with
        answers := rest, trace := s.trace ++ ackedEvents [[0x00, b]], controller := k, seq := .pageCmd pg .colHigh }) ∧
    (∀ pg : Fin 8, s.seq = .pageCmd pg .colHigh → ∃ k : Controller, exec (.busCmd b) s = .next
      { s with
        answers := rest, trace := s.trace ++ ackedEvents [[0x00, b]], controller := k
        latches := { s.latches with col := 127 }, seq := .pageData pg }) ∧
    (s.seq = .idle → ∃ k : Controller, exec (.busCmd b) s = .next
      { s with answers := rest, trace := s.trace ++ ackedEvents [[0x00, b]], controller := k })

/-- R104: the three command rows of a page, acknowledged at their positions, send `0xB0 + pg`, `0x00` and `0x10`, each in
its own transaction, in that order; the page's slice is then read, `col` running to 127 (DEDUCED, log entry 11). Where
something is said of the panel (`Ready`, R22, and a faithful `Cfg`, R100) the controller's page pointer is then the
page, and the halves of its column pointer are zero: the environment's assumption (log entry 12). The bytes are the
spec's defaults from general knowledge (PRESUMED, log entry 6). -/
def Obligations.PageRowsSetThePointersOfTheirPage : Prop :=
  ∀ (pg : Fin 8) (rest : List BusAnswer) (s : State), s.answers = .ack :: rest →
    (s.seq = .pageCmd pg .select → ∃ k : Controller,
      (s.panelSaid = true → k = { s.controller with regs := { s.controller.regs with pagePtr := pg } }) ∧
      exec (.ctlPageSelect pg) s = .next
        { s with
          answers := rest, trace := s.trace ++ ackedEvents [[0x00, 0xB0#8 + BitVec.ofNat 8 pg.val]], controller := k
          seq := .pageCmd pg .colLow }) ∧
    (s.seq = .pageCmd pg .colLow → ∃ k : Controller,
      (s.panelSaid = true → k = { s.controller with regs := { s.controller.regs with colLow := 0 } }) ∧
      exec .ctlColLow s = .next
        { s with
          answers := rest, trace := s.trace ++ ackedEvents [[0x00, 0x00]], controller := k
          seq := .pageCmd pg .colHigh }) ∧
    (s.seq = .pageCmd pg .colHigh → ∃ k : Controller,
      (s.panelSaid = true → k = { s.controller with regs := { s.controller.regs with colHigh := 0 } }) ∧
      exec .ctlColHigh s = .next
        { s with
          answers := rest, trace := s.trace ++ ackedEvents [[0x00, 0x10]], controller := k
          latches := { s.latches with col := 127 }, seq := .pageData pg })

/-- R97, R104, R14: BUS_DATA `d` is one transaction `[0x40] ++ d` to `0x3C`. Acknowledged at the data position of page
`pg`, UPDATE goes on to the page select of the next page, or completes `OK` after page 7. Faulted, it raises
`BusFault(e)`: at every position and for `d` of every length, which away from the data position and from length 128 is
the model's choice (log entry 17). -/
def Obligations.BusDataSendsOneDataTransaction : Prop :=
  (∀ (d : List Byte) (e : FaultInfo) (rest : List BusAnswer) (s : State), s.answers = .fault e :: rest →
    ∃ k : Controller, exec (.busData d) s = .next (State.complete (.busFault e)
      { s with answers := rest, trace := s.trace ++ [faultedEvent (0x40 :: d) e], controller := k })) ∧
  ∀ (d : List Byte) (pg : Fin 8) (rest : List BusAnswer) (s : State), s.answers = .ack :: rest →
    s.seq = .pageData pg →
    (∀ next : Fin 8, next.val = pg.val + 1 → ∃ k : Controller, exec (.busData d) s = .next
      { s with
        answers := rest, trace := s.trace ++ ackedEvents [0x40 :: d], controller := k
        latches := { s.latches with col := 127 }, seq := .pageCmd next .select }) ∧
    (pg = 7 → ∃ k : Controller, exec (.busData d) s = .next
      (State.complete .ok { s with answers := rest, trace := s.trace ++ ackedEvents [0x40 :: d], controller := k }))

/-- R101, R99: each of the 27 `INIT_SEQ` rows, acknowledged at its position, sends its own byte of R101's table in one
command transaction `[0x00, byte]`; INIT goes on to the next entry, or completes with `ctrl_state = Ready` when there is
none. The byte values are the spec's defaults from general knowledge (PRESUMED, log entry 6). That the controller has
taken one entry more is its record in the environment (DEDUCED, log entry 13). -/
def Obligations.InitRowsSendTheirBytes : Prop :=
  ∀ row ∈ [(Instr.initSeq00, (0xAE : Byte)), (.initSeq01, 0x20), (.initSeq02, 0x02), (.initSeq03, 0xB0), (.initSeq04, 0x00),
      (.initSeq05, 0x10), (.initSeq06, 0xC8), (.initSeq07, 0xA1), (.initSeq08, 0x81), (.initSeq09, 0xCF), (.initSeq10, 0xA6),
      (.initSeq11, 0xA8), (.initSeq12, 0x3F), (.initSeq13, 0xA4), (.initSeq14, 0xD3), (.initSeq15, 0x00), (.initSeq16, 0xD5),
      (.initSeq17, 0x80), (.initSeq18, 0xD9), (.initSeq19, 0xF1), (.initSeq20, 0xDA), (.initSeq21, 0x12), (.initSeq22, 0xDB),
      (.initSeq23, 0x40), (.initSeq24, 0x8D), (.initSeq25, 0x14), (.initSeq26, 0xAF)].zipIdx,
    ∀ (rest : List BusAnswer) (s : State), s.answers = .ack :: rest → s.seq = .initStep row.2 →
      ∃ k : Controller, k.taken = s.controller.taken ++ [row.1.2] ∧
        (row.2 + 1 < s.cfg.initSeq.length → exec row.1.1 s = .next
          { s with
            answers := rest, trace := s.trace ++ ackedEvents [[0x00, row.1.2]], controller := k
            seq := .initStep (row.2 + 1) }) ∧
        (s.cfg.initSeq.length ≤ row.2 + 1 → exec row.1.1 s = .next
          (State.complete .ok
            { s with
              answers := rest, trace := s.trace ++ ackedEvents [[0x00, row.1.2]], controller := k, ctrl := .ready }))

/-- R121, R99: a bus position whose transaction the transport faults with `e` raises `BusFault(e)`: the transaction is
recorded as faulted, nothing more is sent, the completion carries `e` unmodified and `seq` is `Idle`. A fault of INIT
leaves `Uninitialized`, a fault of UPDATE leaves `ctrl_state`; nothing else changes. -/
def Obligations.FaultedTransactionRaisesBusFault : Prop :=
  ∀ (e : FaultInfo) (rest : List BusAnswer) (s : State), s.answers = .fault e :: rest →
    (∀ (is : Nat) (b : Byte), s.seq = .initStep is → s.cfg.initSeq[is]? = some b → ∃ k : Controller,
      step s = .next (State.complete (.busFault e)
        { s with
          answers := rest, trace := s.trace ++ [faultedEvent [0x00, b] e], controller := k, ctrl := .uninitialized })) ∧
    (∀ (pg : Fin 8) (c : PageCmdKind), s.seq = .pageCmd pg c → ∃ k : Controller,
      step s = .next (State.complete (.busFault e)
        { s with answers := rest, trace := s.trace ++ [faultedEvent [0x00, pageByte s.cfg pg c] e], controller := k })) ∧
    (∀ pg : Fin 8, s.seq = .pageData pg → ∃ k : Controller,
      step s = .next (State.complete (.busFault e)
        { s with answers := rest, trace := s.trace ++ [faultedEvent (0x40 :: s.slice pg) e], controller := k }))

/-- R95, R150: while the transport has not answered, a command at a bus position of R14 stays there: every step, any
number of them, changes nothing, and no command is accepted. -/
def Obligations.UnansweredTransactionStallsTheBlock : Prop :=
  ∀ (s : State) (n : Nat), s.answers = [] →
    ((∃ is, s.seq = .initStep is ∧ is < s.cfg.initSeq.length) ∨ (∃ pg k, s.seq = .pageCmd pg k) ∨
      ∃ pg, s.seq = .pageData pg) →
    core.run n s = .next s

/-! ## INIT and UPDATE -/

/-- R99, R103: INIT, canonical word `0x000000000000`, from either controller state and whatever the framebuffer holds.
When every transaction is acknowledged it sends exactly the entries of `INIT_SEQ` in order, once each, and leaves
`Ready`. When transaction `n` is the first to be faulted it sends entries 0 to `n`, ends `BUS_FAULT` with `e`, and
leaves `Uninitialized`. The framebuffer and everything else in the block is unchanged. -/
def Obligations.InitSendsItsSequenceInOrder : Prop :=
  encode .init = .cmd 0x000000000000 ∧ ∀ (rest : List BusAnswer) (s : State),
    (s.answers = acks s.cfg.initSeq.length ++ rest → ∃ k : Controller,
      exec .init s = .next (State.complete .ok
        { s with
          answers := rest, trace := s.trace ++ ackedEvents (initPayloads s.cfg), ctrl := .ready, controller := k })) ∧
    (∀ (n : Nat) (e : FaultInfo) (b : Byte), s.cfg.initSeq[n]? = some b → s.answers = acks n ++ .fault e :: rest →
      ∃ k : Controller, exec .init s = .next (State.complete (.busFault e)
        { s with
          answers := rest
          trace := s.trace ++ ackedEvents ((initPayloads s.cfg).take n) ++ [faultedEvent [0x00, b] e]
          ctrl := .uninitialized, controller := k }))

/-- R124, of the environment's controller, so the model's choice (DEDUCED, log entries 13 and 26): an acknowledged INIT
leaves the controller having taken every entry of `INIT_SEQ`; one whose transaction `n` is the first to be faulted,
having taken entries 0 to `n − 1` of the new initialisation. Of its panel and pointers nothing is then said: they hold
a free value. -/
def Obligations.ControllerTakesTheAcknowledgedEntries : Prop :=
  ∀ (rest : List BusAnswer) (s : State),
    (s.answers = acks s.cfg.initSeq.length ++ rest →
      ∃ t : State, exec .init s = .next t ∧ t.controller.taken = s.cfg.initSeq ∧ t.controller.unsaid) ∧
    (∀ (n : Nat) (e : FaultInfo), n < s.cfg.initSeq.length → s.answers = acks n ++ .fault e :: rest →
      ∃ t : State, exec .init s = .next t ∧ t.controller.taken = s.cfg.initSeq.take n ∧ t.controller.unsaid)

/-- R150, R14: an INIT whose transaction `n` is never answered stands at `InitStep(n)`: entries 0 to `n − 1` are sent, no
completion is delivered, and `ctrl_state` is what it was. The model's choices: the transaction offered is not in the
trace (log entry 16), the latch `op` stays loaded and the other working registers as they were (log entry 10), and the
controller's record is of entries 0 to `n − 1` (DEDUCED, log entries 13 and 26). -/
def Obligations.InitStandsWhereItIsNotAnswered : Prop :=
  ∀ (n : Nat) (s : State), n < s.cfg.initSeq.length → s.answers = acks n →
    ∃ k : Controller, k.taken = s.cfg.initSeq.take n ∧ k.unsaid ∧ exec .init s = .next
      { s with
        answers := [], trace := s.trace ++ ackedEvents ((initPayloads s.cfg).take n), seq := .initStep n
        latches := { s.latches with op := .init }, controller := k }

/-- R104: UPDATE, canonical word `0x000000000002`, from either controller state. When every transaction is acknowledged it
sends exactly its 32 transactions: for each page in ascending order the page select, the low and the high column
command, and the page's 128 bytes. When transaction `n` is the first to be faulted it sends transactions 0 to `n` and
ends `BUS_FAULT` with `e`. The framebuffer, `ctrl_state` and everything else in the block is unchanged. -/
def Obligations.UpdateSendsEveryPageInOrder : Prop :=
  encode .update = .cmd 0x000000000002 ∧ ∀ (rest : List BusAnswer) (s : State),
    (s.answers = acks 32 ++ rest → ∃ k : Controller,
      exec .update s = .next (State.complete .ok
        { s with answers := rest, trace := s.trace ++ ackedEvents s.updatePayloads, controller := k })) ∧
    (∀ (n : Nat) (e : FaultInfo) (p : List Byte), s.updatePayloads[n]? = some p →
      s.answers = acks n ++ .fault e :: rest → ∃ k : Controller,
        exec .update s = .next (State.complete (.busFault e)
          { s with
            answers := rest
            trace := s.trace ++ ackedEvents (s.updatePayloads.take n) ++ [faultedEvent p e], controller := k }))

/-- R105: the trace of an unfaulted UPDATE by its indices: 32 transactions, `T[4p]`, `T[4p+1]`, `T[4p+2]` the three
commands of page `p`, `T[4p+3]` the data of page `p`, with the framebuffer at the start of the UPDATE, which is also
the one at its end. -/
def Obligations.UpdateTraceByIndex : Prop :=
  ∀ (rest : List BusAnswer) (s : State), s.answers = acks 32 ++ rest →
    ∃ (t : State) (T : List BusEvent), exec .update s = .next t ∧ t.trace = s.trace ++ T ∧ t.fb = s.fb ∧ T.length = 32 ∧
      ∀ p : Nat, p < 8 →
        T[4 * p]? = some ⟨0x3C, [0x00, s.cfg.pageBase + BitVec.ofNat 8 p], .ack⟩ ∧
        T[4 * p + 1]? = some ⟨0x3C, [0x00, s.cfg.colLow], .ack⟩ ∧
        T[4 * p + 2]? = some ⟨0x3C, [0x00, s.cfg.colHigh], .ack⟩ ∧
        T[4 * p + 3]? = some ⟨0x3C, 0x40 :: (List.range 128).map (fun k => s.fbByte (128 * p + k)), .ack⟩

/-- R58: with a well-formed `Cfg` the page-select byte of every page is `PAGE_BASE + pg` with no carry out of the byte;
with the default it is `PAGE_BASE | pg`. -/
def Obligations.PageSelectByteNeverCarries : Prop :=
  (∀ (c : Cfg) (pg : Fin 8), c.wf →
    (c.pageBase + BitVec.ofNat 8 pg.val).toNat = c.pageBase.toNat + pg.val) ∧
  Config.defaultCfg.wf ∧
  ∀ pg : Fin 8, Config.defaultCfg.pageBase + BitVec.ofNat 8 pg.val = Config.defaultCfg.pageBase ||| BitVec.ofNat 8 pg.val

/-! ## The panel (R22): statements about the environment's assumption, log entries 12 to 14 -/

/-- R22, R100, the environment's assumption (log entry 12): after an UPDATE from `Ready` with a faithful `Cfg` that is
acknowledged throughout, every page of the panel is the framebuffer's page, so `PANEL = FB` byte by byte. -/
def Obligations.AcknowledgedUpdateMakesThePanelTheFramebuffer : Prop :=
  ∀ (rest : List BusAnswer) (s : State), s.panelSaid = true → s.answers = acks 32 ++ rest →
    ∃ t : State, exec .update s = .next t ∧ t.completions = s.completions ++ [.ok] ∧
      (∀ p : Fin 8, t.controller.page p = t.slice p.val) ∧
      ∀ a : Fin 1024, t.controller.panelByte a = t.fbByte a.val

/-- R22, R124, R100, the environment's assumption (log entry 12): after an UPDATE from `Ready` with a faithful `Cfg` whose
transaction `n` is the first to be faulted, the pages below page `n div 4` are updated, the faulted page holds a free
value if its data transaction was the faulted one, and the remaining pages are as they were. -/
def Obligations.FaultedUpdateLeavesLaterPagesStale : Prop :=
  ∀ (n : Nat) (e : FaultInfo) (rest : List BusAnswer) (s : State), s.panelSaid = true → n < 32 →
    s.answers = acks n ++ .fault e :: rest →
    ∃ t : State, exec .update s = .next t ∧ t.completions = s.completions ++ [.busFault e] ∧
      ∀ p : Fin 8,
        (p.val < n / 4 → t.controller.page p = s.slice p.val) ∧
        (p.val = n / 4 → n % 4 = 3 → ∃ v, t.controller.regs.panel[p.val] = (Config.freeController v).panel[p.val]) ∧
        (p.val = n / 4 → n % 4 ≠ 3 → t.controller.page p = s.controller.page p) ∧
        (n / 4 < p.val → t.controller.page p = s.controller.page p)

/-- R22, U11, U13, the environment's assumption (log entries 12 and 14): where nothing is said of the panel, in
`Uninitialized` or with a `Cfg` that is not faithful (R100), it holds a free value after every transaction of the block
that is answered, whichever instruction sends it. -/
def Obligations.NothingIsSaidOfThePanelOtherwise : Prop :=
  ∀ (i : Instr) (s t : State), s.panelSaid = false → exec i s = .next t →
    ((∃ b, i = .busCmd b) ∨ (∃ d, i = .busData d) ∨ (∃ pg, i = .ctlPageSelect pg) ∨ i = .ctlColLow ∨ i = .ctlColHigh ∨
      i ∈ initSeqInstrs) →
    s.answers ≠ [] → t.controller.unsaid

/-! ## What the instructions leave unchanged -/

/-- The frame of the drawing commands: CLEAR, DRAW_PIXEL, DRAW_CHAR and DRAW_STRING touch no bus, no flag, no panel and no
command; only DRAW_STRING takes text. -/
def Obligations.DrawingTouchesOnlyTheFramebuffer : Prop :=
  ∀ (i : Instr) (s t : State), exec i s = .next t →
    (i = .clear ∨ (∃ x y on, i = .drawPixel x y on) ∨ (∃ x y c on, i = .drawChar x y c on) ∨
      ∃ x y on, i = .drawString x y on) →
    t.cfg = s.cfg ∧ t.ctrl = s.ctrl ∧ t.cmds = s.cmds ∧ t.answers = s.answers ∧ t.trace = s.trace ∧
      t.controller = s.controller ∧ ((∀ x y on, i ≠ .drawString x y on) → t.text = s.text)

/-- The frame of the bus side: INIT, UPDATE, the two transactions and every controller byte leave every byte of the
framebuffer, the configuration, the command port and the text port, whatever the transport answers or does not answer.
-/
def Obligations.BusSideLeavesEveryByteOfTheFramebuffer : Prop :=
  ∀ (i : Instr) (s t : State), exec i s = .next t →
    (i = .init ∨ i = .update ∨ (∃ b, i = .busCmd b) ∨ (∃ d, i = .busData d) ∨ (∃ pg, i = .ctlPageSelect pg) ∨
      i = .ctlColLow ∨ i = .ctlColHigh ∨ i ∈ initSeqInstrs) →
    (∀ a, t.fbByte a = s.fbByte a) ∧ t.fb = s.fb ∧ t.cfg = s.cfg ∧ t.cmds = s.cmds ∧ t.text = s.text

/-- R19, R155, R12: no step changes the configuration, the glyph ROM among it. -/
def Obligations.StepNeverChangesTheConfiguration : Prop :=
  ∀ s t : State, step s = .next t → t.cfg = s.cfg

/-- R15: `ctrl_state` is written by INIT only: a step that changes it runs INIT from `Idle` or stands inside INIT. -/
def Obligations.OnlyInitWritesControllerState : Prop :=
  ∀ s t : State, step s = .next t → t.ctrl ≠ s.ctrl →
    s.seq = .settle ∨ (∃ is, s.seq = .initStep is) ∨
      (s.seq = .idle ∧ ∃ c rest, s.cmds = c :: rest ∧ decodeCmd c.word = .init)

/-- R38: the bus trace and the completions are histories: a step only adds to them, and at most one completion. -/
def Obligations.StepOnlyAddsToTheHistories : Prop :=
  ∀ s t : State, step s = .next t →
    (∃ T, t.trace = s.trace ++ T) ∧ (t.completions = s.completions ∨ ∃ r, t.completions = s.completions ++ [r])

/-- R56: a drawing command or CLEAR can end only with `OK`, and only INIT and UPDATE can end with `BUS_FAULT`. -/
def Obligations.DrawingEndsOnlyWithOk : Prop :=
  ∀ (i : Instr) (s t : State) (r : Completion), exec i s = .next t → t.completions = s.completions ++ [r] →
    ((i = .clear ∨ (∃ x y on, i = .drawPixel x y on) ∨ (∃ x y c on, i = .drawChar x y c on) ∨
      ∃ x y on, i = .drawString x y on) → r = .ok) ∧
    ((i = .init ∨ i = .update) → r = .ok ∨ ∃ e, r = .busFault e ∧ .fault e ∈ s.answers)

/-! ## Whole-machine rules -/

/-- R15, R107: no rule reads `ctrl_state`: from two states that differ only in it, every instruction gives states that
agree in everything but `ctrl_state` and the environment's controller. -/
def Obligations.NothingInTheBlockReadsControllerState : Prop :=
  ∀ (i : Instr) (s : State) (c : CtrlState), ∃ t u : State,
    exec i s = .next t ∧ exec i { s with ctrl := c } = .next u ∧
      { u with ctrl := t.ctrl, controller := t.controller } = t

/-- R13, U17: the working registers are dead while the block is idle: whatever they hold, the step of an idle block gives
the same state but for them. -/
def Obligations.WorkingRegistersAreDeadWhileIdle : Prop :=
  ∀ (s : State) (l : Latches), s.seq = .idle → ∃ t u : State,
    step s = .next t ∧ step { s with latches := l } = .next u ∧ { u with latches := t.latches } = t

/-- R14, R36, R58, R95: every step from a legal state leads to a legal state: the position is one of R14's, `FB` is
canonical and inside 0 to 1023, the block has emitted only the two transactions of R58, all to `0x3C`, and every fault
carries a value of `FAULT_INFO`. What `State.Legal` says besides is the environment's assumption and the model's: the
controller's panel, pointers and taken entries (log entry 12, DESIGN CHOICE; log entries 13 and 26, DEDUCED; log entry
14) and `col` at a data position (log entry 11, DEDUCED). -/
def Obligations.StepKeepsLegalStates : Prop :=
  ∀ s t : State, s.Legal → step s = .next t → t.Legal

/-- The state after reset is legal, for every well-formed configuration. -/
def Obligations.ResetStateIsLegal : Prop :=
  State.reset.Legal ∧ ∀ c : Cfg, c.wf → (State.resetWith c).Legal

/-- From a legal state every step goes on: the machine never faults or refuses. -/
def Obligations.LegalStatesAlwaysStep : Prop :=
  ∀ s : State, s.Legal → ∃ t, step s = .next t

/-- R14: the atomic commands are the sequencer's own moves run to their end: CLEAR from `Clearing(0)` in 1024 moves,
DRAW_PIXEL from `Pixel` in one, a glyph of DRAW_CHAR from `Glyph(0, 0)` in 40, and INIT, UPDATE and DRAW_STRING from
where they start, in as many moves as the transport and the text stream allow. -/
def Obligations.SequencerMovesMakeTheAtomicCommands : Prop :=
  ∀ s : State,
    core.run 1024 { s with seq := .clearing 0 } = exec .clear s ∧
    (∀ x y on, core.run 1 ({ s.loadDraw .drawPixel x y on with seq := .pixel }) = exec (.drawPixel x y on) s) ∧
    (∀ x y ch on, 32 ≤ ch.toNat → ch.toNat ≤ 126 →
      core.run 40 { s with seq := .glyph 0 0, latches := { s.latches with op := .drawChar, ox := x, oy := y, oc := ch, oon := on } } =
        exec (.drawChar x y ch on) s) ∧
    (∃ n, core.run n s.startInit = exec .init s) ∧
    (∃ n, core.run n s.startUpdate = exec .update s) ∧
    (∀ x y on, ∃ n, core.run n { s.startString x y on with seq := .nextChar } = exec (.drawString x y on) s)
end

