-- ==== Sys2Proof/Laws/State.lean ====
section
/-! SUPPORT. What each update of the state leaves in each field: one lemma per field that an update writes or passes on,
so that later proofs need not unfold the updates. -/

namespace Sys2Proof.Machine

/-! ## `State.complete` -/

@[simp] theorem State.complete_cfg (s : State) (r : Completion) : (s.complete r).cfg = s.cfg := rfl
@[simp] theorem State.complete_fb (s : State) (r : Completion) : (s.complete r).fb = s.fb := rfl
@[simp] theorem State.complete_ctrl (s : State) (r : Completion) : (s.complete r).ctrl = s.ctrl := rfl
@[simp] theorem State.complete_seq (s : State) (r : Completion) : (s.complete r).seq = .idle := rfl
@[simp] theorem State.complete_latches (s : State) (r : Completion) : (s.complete r).latches = Config.freeLatches s.draws := rfl
@[simp] theorem State.complete_cmds (s : State) (r : Completion) : (s.complete r).cmds = s.cmds := rfl
@[simp] theorem State.complete_text (s : State) (r : Completion) : (s.complete r).text = s.text := rfl
@[simp] theorem State.complete_answers (s : State) (r : Completion) : (s.complete r).answers = s.answers := rfl
@[simp] theorem State.complete_completions (s : State) (r : Completion) : (s.complete r).completions = s.completions ++ [r] := rfl
@[simp] theorem State.complete_trace (s : State) (r : Completion) : (s.complete r).trace = s.trace := rfl
@[simp] theorem State.complete_controller (s : State) (r : Completion) : (s.complete r).controller = s.controller := rfl
@[simp] theorem State.complete_draws (s : State) (r : Completion) : (s.complete r).draws = s.draws + 1 := rfl

/-! ## `State.raiseBusFault` -/

@[simp] theorem State.raiseBusFault_cfg (s : State) (e : FaultInfo) : (s.raiseBusFault e).cfg = s.cfg := rfl
@[simp] theorem State.raiseBusFault_fb (s : State) (e : FaultInfo) : (s.raiseBusFault e).fb = s.fb := rfl
@[simp] theorem State.raiseBusFault_ctrl (s : State) (e : FaultInfo) : (s.raiseBusFault e).ctrl = s.ctrl := rfl
@[simp] theorem State.raiseBusFault_seq (s : State) (e : FaultInfo) : (s.raiseBusFault e).seq = .idle := rfl
@[simp] theorem State.raiseBusFault_latches (s : State) (e : FaultInfo) : (s.raiseBusFault e).latches = Config.freeLatches s.draws := rfl
@[simp] theorem State.raiseBusFault_cmds (s : State) (e : FaultInfo) : (s.raiseBusFault e).cmds = s.cmds := rfl
@[simp] theorem State.raiseBusFault_text (s : State) (e : FaultInfo) : (s.raiseBusFault e).text = s.text := rfl
@[simp] theorem State.raiseBusFault_answers (s : State) (e : FaultInfo) : (s.raiseBusFault e).answers = s.answers := rfl
@[simp] theorem State.raiseBusFault_completions (s : State) (e : FaultInfo) : (s.raiseBusFault e).completions = s.completions ++ [.busFault e] := rfl
@[simp] theorem State.raiseBusFault_trace (s : State) (e : FaultInfo) : (s.raiseBusFault e).trace = s.trace := rfl
@[simp] theorem State.raiseBusFault_controller (s : State) (e : FaultInfo) : (s.raiseBusFault e).controller = s.controller := rfl
@[simp] theorem State.raiseBusFault_draws (s : State) (e : FaultInfo) : (s.raiseBusFault e).draws = s.draws + 1 := rfl

/-! ## `State.raiseIllegal` -/

@[simp] theorem State.raiseIllegal_cfg (s : State) : (s.raiseIllegal).cfg = s.cfg := rfl
@[simp] theorem State.raiseIllegal_fb (s : State) : (s.raiseIllegal).fb = s.fb := rfl
@[simp] theorem State.raiseIllegal_ctrl (s : State) : (s.raiseIllegal).ctrl = s.ctrl := rfl
@[simp] theorem State.raiseIllegal_seq (s : State) : (s.raiseIllegal).seq = s.seq := rfl
@[simp] theorem State.raiseIllegal_latches (s : State) : (s.raiseIllegal).latches = s.latches := rfl
@[simp] theorem State.raiseIllegal_cmds (s : State) : (s.raiseIllegal).cmds = s.cmds := rfl
@[simp] theorem State.raiseIllegal_text (s : State) : (s.raiseIllegal).text = s.text := rfl
@[simp] theorem State.raiseIllegal_answers (s : State) : (s.raiseIllegal).answers = s.answers := rfl
@[simp] theorem State.raiseIllegal_completions (s : State) : (s.raiseIllegal).completions = s.completions ++ [.illegal] := rfl
@[simp] theorem State.raiseIllegal_trace (s : State) : (s.raiseIllegal).trace = s.trace := rfl
@[simp] theorem State.raiseIllegal_controller (s : State) : (s.raiseIllegal).controller = s.controller := rfl
@[simp] theorem State.raiseIllegal_draws (s : State) : (s.raiseIllegal).draws = s.draws := rfl

/-! ## `State.setReady` -/

@[simp] theorem State.setReady_cfg (s : State) : (s.setReady).cfg = s.cfg := rfl
@[simp] theorem State.setReady_fb (s : State) : (s.setReady).fb = s.fb := rfl
@[simp] theorem State.setReady_ctrl (s : State) : (s.setReady).ctrl = .ready := rfl
@[simp] theorem State.setReady_seq (s : State) : (s.setReady).seq = s.seq := rfl
@[simp] theorem State.setReady_latches (s : State) : (s.setReady).latches = s.latches := rfl
@[simp] theorem State.setReady_cmds (s : State) : (s.setReady).cmds = s.cmds := rfl
@[simp] theorem State.setReady_text (s : State) : (s.setReady).text = s.text := rfl
@[simp] theorem State.setReady_answers (s : State) : (s.setReady).answers = s.answers := rfl
@[simp] theorem State.setReady_completions (s : State) : (s.setReady).completions = s.completions := rfl
@[simp] theorem State.setReady_trace (s : State) : (s.setReady).trace = s.trace := rfl
@[simp] theorem State.setReady_controller (s : State) : (s.setReady).controller = s.controller := rfl
@[simp] theorem State.setReady_draws (s : State) : (s.setReady).draws = s.draws := rfl

/-! ## `State.setPixel` -/

@[simp] theorem State.setPixel_cfg (s : State) (x y : Int) (on : Bool) : (s.setPixel x y on).cfg = s.cfg := rfl
@[simp] theorem State.setPixel_fb (s : State) (x y : Int) (on : Bool) : (s.setPixel x y on).fb = Machine.setPixel s.cfg x y on s.fb := rfl
@[simp] theorem State.setPixel_ctrl (s : State) (x y : Int) (on : Bool) : (s.setPixel x y on).ctrl = s.ctrl := rfl
@[simp] theorem State.setPixel_seq (s : State) (x y : Int) (on : Bool) : (s.setPixel x y on).seq = s.seq := rfl
@[simp] theorem State.setPixel_latches (s : State) (x y : Int) (on : Bool) : (s.setPixel x y on).latches = s.latches := rfl
@[simp] theorem State.setPixel_cmds (s : State) (x y : Int) (on : Bool) : (s.setPixel x y on).cmds = s.cmds := rfl
@[simp] theorem State.setPixel_text (s : State) (x y : Int) (on : Bool) : (s.setPixel x y on).text = s.text := rfl
@[simp] theorem State.setPixel_answers (s : State) (x y : Int) (on : Bool) : (s.setPixel x y on).answers = s.answers := rfl
@[simp] theorem State.setPixel_completions (s : State) (x y : Int) (on : Bool) : (s.setPixel x y on).completions = s.completions := rfl
@[simp] theorem State.setPixel_trace (s : State) (x y : Int) (on : Bool) : (s.setPixel x y on).trace = s.trace := rfl
@[simp] theorem State.setPixel_controller (s : State) (x y : Int) (on : Bool) : (s.setPixel x y on).controller = s.controller := rfl
@[simp] theorem State.setPixel_draws (s : State) (x y : Int) (on : Bool) : (s.setPixel x y on).draws = s.draws := rfl

/-! ## `State.loadOp` -/

@[simp] theorem State.loadOp_cfg (s : State) (op : CmdOp) : (s.loadOp op).cfg = s.cfg := rfl
@[simp] theorem State.loadOp_fb (s : State) (op : CmdOp) : (s.loadOp op).fb = s.fb := rfl
@[simp] theorem State.loadOp_ctrl (s : State) (op : CmdOp) : (s.loadOp op).ctrl = s.ctrl := rfl
@[simp] theorem State.loadOp_seq (s : State) (op : CmdOp) : (s.loadOp op).seq = s.seq := rfl
@[simp] theorem State.loadOp_cmds (s : State) (op : CmdOp) : (s.loadOp op).cmds = s.cmds := rfl
@[simp] theorem State.loadOp_text (s : State) (op : CmdOp) : (s.loadOp op).text = s.text := rfl
@[simp] theorem State.loadOp_answers (s : State) (op : CmdOp) : (s.loadOp op).answers = s.answers := rfl
@[simp] theorem State.loadOp_completions (s : State) (op : CmdOp) : (s.loadOp op).completions = s.completions := rfl
@[simp] theorem State.loadOp_trace (s : State) (op : CmdOp) : (s.loadOp op).trace = s.trace := rfl
@[simp] theorem State.loadOp_controller (s : State) (op : CmdOp) : (s.loadOp op).controller = s.controller := rfl
@[simp] theorem State.loadOp_draws (s : State) (op : CmdOp) : (s.loadOp op).draws = s.draws := rfl

/-! ## `State.loadDraw` -/

@[simp] theorem State.loadDraw_cfg (s : State) (op : CmdOp) (x y : Int) (on : Bool) : (s.loadDraw op x y on).cfg = s.cfg := rfl
@[simp] theorem State.loadDraw_fb (s : State) (op : CmdOp) (x y : Int) (on : Bool) : (s.loadDraw op x y on).fb = s.fb := rfl
@[simp] theorem State.loadDraw_ctrl (s : State) (op : CmdOp) (x y : Int) (on : Bool) : (s.loadDraw op x y on).ctrl = s.ctrl := rfl
@[simp] theorem State.loadDraw_seq (s : State) (op : CmdOp) (x y : Int) (on : Bool) : (s.loadDraw op x y on).seq = s.seq := rfl
@[simp] theorem State.loadDraw_cmds (s : State) (op : CmdOp) (x y : Int) (on : Bool) : (s.loadDraw op x y on).cmds = s.cmds := rfl
@[simp] theorem State.loadDraw_text (s : State) (op : CmdOp) (x y : Int) (on : Bool) : (s.loadDraw op x y on).text = s.text := rfl
@[simp] theorem State.loadDraw_answers (s : State) (op : CmdOp) (x y : Int) (on : Bool) : (s.loadDraw op x y on).answers = s.answers := rfl
@[simp] theorem State.loadDraw_completions (s : State) (op : CmdOp) (x y : Int) (on : Bool) : (s.loadDraw op x y on).completions = s.completions := rfl
@[simp] theorem State.loadDraw_trace (s : State) (op : CmdOp) (x y : Int) (on : Bool) : (s.loadDraw op x y on).trace = s.trace := rfl
@[simp] theorem State.loadDraw_controller (s : State) (op : CmdOp) (x y : Int) (on : Bool) : (s.loadDraw op x y on).controller = s.controller := rfl
@[simp] theorem State.loadDraw_draws (s : State) (op : CmdOp) (x y : Int) (on : Bool) : (s.loadDraw op x y on).draws = s.draws := rfl

/-! ## `State.startString` -/

@[simp] theorem State.startString_cfg (s : State) (x y : Int) (on : Bool) : (s.startString x y on).cfg = s.cfg := rfl
@[simp] theorem State.startString_fb (s : State) (x y : Int) (on : Bool) : (s.startString x y on).fb = s.fb := rfl
@[simp] theorem State.startString_ctrl (s : State) (x y : Int) (on : Bool) : (s.startString x y on).ctrl = s.ctrl := rfl
@[simp] theorem State.startString_seq (s : State) (x y : Int) (on : Bool) : (s.startString x y on).seq = s.seq := rfl
@[simp] theorem State.startString_cmds (s : State) (x y : Int) (on : Bool) : (s.startString x y on).cmds = s.cmds := rfl
@[simp] theorem State.startString_text (s : State) (x y : Int) (on : Bool) : (s.startString x y on).text = s.text := rfl
@[simp] theorem State.startString_answers (s : State) (x y : Int) (on : Bool) : (s.startString x y on).answers = s.answers := rfl
@[simp] theorem State.startString_completions (s : State) (x y : Int) (on : Bool) : (s.startString x y on).completions = s.completions := rfl
@[simp] theorem State.startString_trace (s : State) (x y : Int) (on : Bool) : (s.startString x y on).trace = s.trace := rfl
@[simp] theorem State.startString_controller (s : State) (x y : Int) (on : Bool) : (s.startString x y on).controller = s.controller := rfl
@[simp] theorem State.startString_draws (s : State) (x y : Int) (on : Bool) : (s.startString x y on).draws = s.draws := rfl

/-! ## `State.drawNext` -/

@[simp] theorem State.drawNext_cfg (s : State) (b : Byte) : (s.drawNext b).cfg = s.cfg := rfl
@[simp] theorem State.drawNext_fb (s : State) (b : Byte) : (s.drawNext b).fb = drawChar s.cfg s.latches.cur s.latches.oy b s.latches.oon s.fb := rfl
@[simp] theorem State.drawNext_ctrl (s : State) (b : Byte) : (s.drawNext b).ctrl = s.ctrl := rfl
@[simp] theorem State.drawNext_seq (s : State) (b : Byte) : (s.drawNext b).seq = s.seq := rfl
@[simp] theorem State.drawNext_cmds (s : State) (b : Byte) : (s.drawNext b).cmds = s.cmds := rfl
@[simp] theorem State.drawNext_text (s : State) (b : Byte) : (s.drawNext b).text = s.text := rfl
@[simp] theorem State.drawNext_answers (s : State) (b : Byte) : (s.drawNext b).answers = s.answers := rfl
@[simp] theorem State.drawNext_completions (s : State) (b : Byte) : (s.drawNext b).completions = s.completions := rfl
@[simp] theorem State.drawNext_trace (s : State) (b : Byte) : (s.drawNext b).trace = s.trace := rfl
@[simp] theorem State.drawNext_controller (s : State) (b : Byte) : (s.drawNext b).controller = s.controller := rfl
@[simp] theorem State.drawNext_draws (s : State) (b : Byte) : (s.drawNext b).draws = s.draws := rfl

/-! ## `State.startUpdate` -/

@[simp] theorem State.startUpdate_cfg (s : State) : (s.startUpdate).cfg = s.cfg := rfl
@[simp] theorem State.startUpdate_fb (s : State) : (s.startUpdate).fb = s.fb := rfl
@[simp] theorem State.startUpdate_ctrl (s : State) : (s.startUpdate).ctrl = s.ctrl := rfl
@[simp] theorem State.startUpdate_seq (s : State) : (s.startUpdate).seq = .pageCmd 0 .select := rfl
@[simp] theorem State.startUpdate_cmds (s : State) : (s.startUpdate).cmds = s.cmds := rfl
@[simp] theorem State.startUpdate_text (s : State) : (s.startUpdate).text = s.text := rfl
@[simp] theorem State.startUpdate_answers (s : State) : (s.startUpdate).answers = s.answers := rfl
@[simp] theorem State.startUpdate_completions (s : State) : (s.startUpdate).completions = s.completions := rfl
@[simp] theorem State.startUpdate_trace (s : State) : (s.startUpdate).trace = s.trace := rfl
@[simp] theorem State.startUpdate_controller (s : State) : (s.startUpdate).controller = s.controller := rfl
@[simp] theorem State.startUpdate_draws (s : State) : (s.startUpdate).draws = s.draws := rfl

/-! ## `State.advanceCursor` -/

@[simp] theorem State.advanceCursor_cfg (s : State) : (s.advanceCursor).cfg = s.cfg := rfl
@[simp] theorem State.advanceCursor_fb (s : State) : (s.advanceCursor).fb = s.fb := rfl
@[simp] theorem State.advanceCursor_ctrl (s : State) : (s.advanceCursor).ctrl = s.ctrl := rfl
@[simp] theorem State.advanceCursor_seq (s : State) : (s.advanceCursor).seq = .nextChar := rfl
@[simp] theorem State.advanceCursor_cmds (s : State) : (s.advanceCursor).cmds = s.cmds := rfl
@[simp] theorem State.advanceCursor_text (s : State) : (s.advanceCursor).text = s.text := rfl
@[simp] theorem State.advanceCursor_answers (s : State) : (s.advanceCursor).answers = s.answers := rfl
@[simp] theorem State.advanceCursor_completions (s : State) : (s.advanceCursor).completions = s.completions := rfl
@[simp] theorem State.advanceCursor_trace (s : State) : (s.advanceCursor).trace = s.trace := rfl
@[simp] theorem State.advanceCursor_controller (s : State) : (s.advanceCursor).controller = s.controller := rfl
@[simp] theorem State.advanceCursor_draws (s : State) : (s.advanceCursor).draws = s.draws := rfl

/-! ## `State.accept` -/

@[simp] theorem State.accept_cfg (s : State) (c : HostCommand) (rest : List HostCommand) : (s.accept c rest).cfg = s.cfg := rfl
@[simp] theorem State.accept_fb (s : State) (c : HostCommand) (rest : List HostCommand) : (s.accept c rest).fb = s.fb := rfl
@[simp] theorem State.accept_ctrl (s : State) (c : HostCommand) (rest : List HostCommand) : (s.accept c rest).ctrl = s.ctrl := rfl
@[simp] theorem State.accept_seq (s : State) (c : HostCommand) (rest : List HostCommand) : (s.accept c rest).seq = s.seq := rfl
@[simp] theorem State.accept_latches (s : State) (c : HostCommand) (rest : List HostCommand) : (s.accept c rest).latches = s.latches := rfl
@[simp] theorem State.accept_cmds (s : State) (c : HostCommand) (rest : List HostCommand) : (s.accept c rest).cmds = rest := rfl
@[simp] theorem State.accept_text (s : State) (c : HostCommand) (rest : List HostCommand) : (s.accept c rest).text = c.text := rfl
@[simp] theorem State.accept_answers (s : State) (c : HostCommand) (rest : List HostCommand) : (s.accept c rest).answers = s.answers := rfl
@[simp] theorem State.accept_completions (s : State) (c : HostCommand) (rest : List HostCommand) : (s.accept c rest).completions = s.completions := rfl
@[simp] theorem State.accept_trace (s : State) (c : HostCommand) (rest : List HostCommand) : (s.accept c rest).trace = s.trace := rfl
@[simp] theorem State.accept_controller (s : State) (c : HostCommand) (rest : List HostCommand) : (s.accept c rest).controller = s.controller := rfl
@[simp] theorem State.accept_draws (s : State) (c : HostCommand) (rest : List HostCommand) : (s.accept c rest).draws = s.draws := rfl

/-! ## `State.offerCommands` -/

@[simp] theorem State.offerCommands_cfg (s : State) (cs : List HostCommand) : (s.offerCommands cs).cfg = s.cfg := rfl
@[simp] theorem State.offerCommands_fb (s : State) (cs : List HostCommand) : (s.offerCommands cs).fb = s.fb := rfl
@[simp] theorem State.offerCommands_ctrl (s : State) (cs : List HostCommand) : (s.offerCommands cs).ctrl = s.ctrl := rfl
@[simp] theorem State.offerCommands_seq (s : State) (cs : List HostCommand) : (s.offerCommands cs).seq = s.seq := rfl
@[simp] theorem State.offerCommands_latches (s : State) (cs : List HostCommand) : (s.offerCommands cs).latches = s.latches := rfl
@[simp] theorem State.offerCommands_cmds (s : State) (cs : List HostCommand) : (s.offerCommands cs).cmds = s.cmds ++ cs := rfl
@[simp] theorem State.offerCommands_text (s : State) (cs : List HostCommand) : (s.offerCommands cs).text = s.text := rfl
@[simp] theorem State.offerCommands_answers (s : State) (cs : List HostCommand) : (s.offerCommands cs).answers = s.answers := rfl
@[simp] theorem State.offerCommands_completions (s : State) (cs : List HostCommand) : (s.offerCommands cs).completions = s.completions := rfl
@[simp] theorem State.offerCommands_trace (s : State) (cs : List HostCommand) : (s.offerCommands cs).trace = s.trace := rfl
@[simp] theorem State.offerCommands_controller (s : State) (cs : List HostCommand) : (s.offerCommands cs).controller = s.controller := rfl
@[simp] theorem State.offerCommands_draws (s : State) (cs : List HostCommand) : (s.offerCommands cs).draws = s.draws := rfl

/-! ## `State.offerText` -/

@[simp] theorem State.offerText_cfg (s : State) (bs : List Byte) : (s.offerText bs).cfg = s.cfg := rfl
@[simp] theorem State.offerText_fb (s : State) (bs : List Byte) : (s.offerText bs).fb = s.fb := rfl
@[simp] theorem State.offerText_ctrl (s : State) (bs : List Byte) : (s.offerText bs).ctrl = s.ctrl := rfl
@[simp] theorem State.offerText_seq (s : State) (bs : List Byte) : (s.offerText bs).seq = s.seq := rfl
@[simp] theorem State.offerText_latches (s : State) (bs : List Byte) : (s.offerText bs).latches = s.latches := rfl
@[simp] theorem State.offerText_cmds (s : State) (bs : List Byte) : (s.offerText bs).cmds = s.cmds := rfl
@[simp] theorem State.offerText_text (s : State) (bs : List Byte) : (s.offerText bs).text = s.text ++ bs := rfl
@[simp] theorem State.offerText_answers (s : State) (bs : List Byte) : (s.offerText bs).answers = s.answers := rfl
@[simp] theorem State.offerText_completions (s : State) (bs : List Byte) : (s.offerText bs).completions = s.completions := rfl
@[simp] theorem State.offerText_trace (s : State) (bs : List Byte) : (s.offerText bs).trace = s.trace := rfl
@[simp] theorem State.offerText_controller (s : State) (bs : List Byte) : (s.offerText bs).controller = s.controller := rfl
@[simp] theorem State.offerText_draws (s : State) (bs : List Byte) : (s.offerText bs).draws = s.draws := rfl

/-! ## `State.offerAnswers` -/

@[simp] theorem State.offerAnswers_cfg (s : State) (as : List BusAnswer) : (s.offerAnswers as).cfg = s.cfg := rfl
@[simp] theorem State.offerAnswers_fb (s : State) (as : List BusAnswer) : (s.offerAnswers as).fb = s.fb := rfl
@[simp] theorem State.offerAnswers_ctrl (s : State) (as : List BusAnswer) : (s.offerAnswers as).ctrl = s.ctrl := rfl
@[simp] theorem State.offerAnswers_seq (s : State) (as : List BusAnswer) : (s.offerAnswers as).seq = s.seq := rfl
@[simp] theorem State.offerAnswers_latches (s : State) (as : List BusAnswer) : (s.offerAnswers as).latches = s.latches := rfl
@[simp] theorem State.offerAnswers_cmds (s : State) (as : List BusAnswer) : (s.offerAnswers as).cmds = s.cmds := rfl
@[simp] theorem State.offerAnswers_text (s : State) (as : List BusAnswer) : (s.offerAnswers as).text = s.text := rfl
@[simp] theorem State.offerAnswers_answers (s : State) (as : List BusAnswer) : (s.offerAnswers as).answers = s.answers ++ as := rfl
@[simp] theorem State.offerAnswers_completions (s : State) (as : List BusAnswer) : (s.offerAnswers as).completions = s.completions := rfl
@[simp] theorem State.offerAnswers_trace (s : State) (as : List BusAnswer) : (s.offerAnswers as).trace = s.trace := rfl
@[simp] theorem State.offerAnswers_controller (s : State) (as : List BusAnswer) : (s.offerAnswers as).controller = s.controller := rfl
@[simp] theorem State.offerAnswers_draws (s : State) (as : List BusAnswer) : (s.offerAnswers as).draws = s.draws := rfl

/-! ## The working registers a load and a character leave -/

@[simp] theorem State.loadDraw_latches (s : State) (op : CmdOp) (x y : Int) (on : Bool) :
    (s.loadDraw op x y on).latches = { s.latches with op := op, ox := x, oy := y, oon := on } := rfl
@[simp] theorem State.startString_latches (s : State) (x y : Int) (on : Bool) :
    (s.startString x y on).latches =
      { s.latches with op := .drawString, ox := x, oy := y, oon := on, cur := x } := rfl
@[simp] theorem State.drawNext_latches (s : State) (b : Byte) :
    (s.drawNext b).latches = Latches.pastChar b s.latches := rfl
@[simp] theorem Latches.pastChar_op (b : Byte) (l : Latches) : (Latches.pastChar b l).op = l.op := by
  unfold Latches.pastChar; split <;> rfl
@[simp] theorem Latches.pastChar_oy (b : Byte) (l : Latches) : (Latches.pastChar b l).oy = l.oy := by
  unfold Latches.pastChar; split <;> rfl
@[simp] theorem Latches.pastChar_oon (b : Byte) (l : Latches) : (Latches.pastChar b l).oon = l.oon := by
  unfold Latches.pastChar; split <;> rfl
@[simp] theorem Latches.pastChar_cur (b : Byte) (l : Latches) : (Latches.pastChar b l).cur = l.cur + 6 := by
  unfold Latches.pastChar; split <;> rfl
@[simp] theorem State.loadOp_latches (s : State) (op : CmdOp) :
    (s.loadOp op).latches = { s.latches with op := op } := rfl

/-! ## The loop counters: one value at every position (R13) -/

theorem State.counters_at_rest {s : State} (h : s.seq = .idle) :
    s.counterIs = s.latches.is ∧ s.counterCi = s.latches.ci ∧ s.counterGi = s.latches.gi ∧ s.counterGj = s.latches.gj ∧
      s.counterPg = s.latches.pg := by
  simp only [State.counterIs, State.counterCi, State.counterGi, State.counterGj, State.counterPg, h, and_self]

/-! ## The controller's updates -/

@[simp] theorem Controller.forget_taken (k : Controller) : k.forget.taken = k.taken := rfl
@[simp] theorem Controller.forget_regs (k : Controller) : k.forget.regs = Config.freeController k.draws := rfl
@[simp] theorem Controller.forget_draws (k : Controller) : k.forget.draws = k.draws + 1 := rfl
@[simp] theorem State.complete_panelSaid (s : State) (r : Completion) : (s.complete r).panelSaid = s.panelSaid := rfl

/-! ## Completing forgets the position and the latches: what was loaded before does not matter -/

/-- A completion overwrites `seq` and the latches, so a state that differs only there completes to the same state. -/
theorem State.complete_congr {s t : State} (r : Completion)
    (h : { s with seq := .idle, latches := t.latches } = { t with seq := .idle }) : s.complete r = t.complete r := by
  obtain ⟨⟩ := s
  obtain ⟨⟩ := t
  simp only [State.mk.injEq] at h
  simp only [State.complete, State.mk.injEq]
  simp [h]

end Sys2Proof.Machine
end

