-- ==== Sys2Proof/Laws/Memory.lean ====
section
/-! SUPPORT. The laws of the framebuffer's cells: a read after a write, the canonical form, and that two canonical
framebuffers which read alike are the same data. -/

namespace Sys2Proof.Machine

/-! ## Looking a cell up -/

theorem Memory.lookup_insertCell (m : Memory) (a b : Nat) (v : Byte) :
    (m.insertCell a v).lookup b = if a = b then some v else m.lookup b := by
  induction m with
  | nil => simp [Memory.insertCell, Memory.lookup]
  | cons cell m ih =>
    obtain ⟨k, w⟩ := cell
    simp only [Memory.insertCell]
    split
    · simp [Memory.lookup]
    · split
      · subst_vars
        simp only [Memory.lookup]
        split <;> simp_all
      · simp only [Memory.lookup, ih]
        split <;> simp_all

theorem Memory.lookup_eraseCell (m : Memory) (a b : Nat) :
    (m.eraseCell a).lookup b = if a = b then none else m.lookup b := by
  induction m with
  | nil => simp [Memory.eraseCell, Memory.lookup]
  | cons cell m ih =>
    obtain ⟨k, w⟩ := cell
    simp only [Memory.eraseCell] at ih
    by_cases hk : k = a
    · subst hk
      simp only [Memory.eraseCell, List.filter_cons, bne_self_eq_false, Bool.false_eq_true, if_false, ih, Memory.lookup]
      split <;> simp_all
    · have hk' : (k != a) = true := by simpa using hk
      simp only [Memory.eraseCell, List.filter_cons, hk', if_true, Memory.lookup, ih]
      split <;> simp_all
      omega

/-- The one law of a write: it is read back at its address and nowhere else. -/
theorem Memory.read_write (c : Cfg) (m : Memory) (a b : Nat) (v : Byte) :
    (m.write c a v).read c b = if a = b then v else m.read c b := by
  unfold Memory.write Memory.read
  by_cases hv : v = resetByte c a
  · rw [if_pos hv, Memory.lookup_eraseCell]
    split
    · subst_vars; rfl
    · rfl
  · rw [if_neg hv, Memory.lookup_insertCell]
    split <;> rfl

@[simp] theorem Memory.read_write_same (c : Cfg) (m : Memory) (a : Nat) (v : Byte) :
    (m.write c a v).read c a = v := by simp [Memory.read_write]

theorem Memory.read_write_other (c : Cfg) (m : Memory) {a b : Nat} (v : Byte) (h : a ≠ b) :
    (m.write c a v).read c b = m.read c b := by simp [Memory.read_write, h]

@[simp] theorem Memory.read_nil (c : Cfg) (a : Nat) : Memory.read c [] a = resetByte c a := rfl

/-! ## The canonical form -/

theorem Memory.mem_insertCell {m : Memory} {a : Nat} {v : Byte} {p : Host.Cell} (h : p ∈ m.insertCell a v) :
    p = (a, v) ∨ p ∈ m := by
  induction m with
  | nil => simpa [Memory.insertCell] using h
  | cons cell m ih =>
    obtain ⟨k, w⟩ := cell
    simp only [Memory.insertCell] at h
    split at h
    · simpa using h
    · split at h
      · rcases List.mem_cons.1 h with h | h <;> simp [h]
      · rcases List.mem_cons.1 h with h | h
        · simp [h]
        · rcases ih h with h | h <;> simp [h]

theorem Memory.sorted_insertCell {m : Memory} (a : Nat) (v : Byte)
    (h : List.Pairwise (fun p q : Host.Cell => p.1 < q.1) m) :
    List.Pairwise (fun p q : Host.Cell => p.1 < q.1) (m.insertCell a v) := by
  induction m with
  | nil => simp [Memory.insertCell]
  | cons cell m ih =>
    obtain ⟨k, w⟩ := cell
    rw [List.pairwise_cons] at h
    obtain ⟨hk, hm⟩ := h
    simp only [Memory.insertCell]
    split
    · rename_i hak
      refine List.pairwise_cons.2 ⟨fun p hp => ?_, List.pairwise_cons.2 ⟨hk, hm⟩⟩
      rcases List.mem_cons.1 hp with hp | hp
      · subst hp; exact hak
      · exact lt_trans hak (hk p hp)
    · split
      · subst_vars; exact List.pairwise_cons.2 ⟨hk, hm⟩
      · refine List.pairwise_cons.2 ⟨fun p hp => ?_, ih hm⟩
        rcases Memory.mem_insertCell hp with hp | hp
        · subst hp; simp only; omega
        · exact hk p hp

/-- A write keeps the canonical form. -/
theorem Memory.wf_write {c : Cfg} {m : Memory} (h : m.wf c) {a : Nat} (ha : a < 1024) (v : Byte) :
    (m.write c a v).wf c := by
  unfold Memory.write
  split
  · exact ⟨h.1.filter _, fun p hp => h.2 p (List.mem_of_mem_filter hp)⟩
  · rename_i hv
    refine ⟨Memory.sorted_insertCell a v h.1, fun p hp => ?_⟩
    rcases Memory.mem_insertCell hp with hp | hp
    · subst hp; exact ⟨ha, hv⟩
    · exact h.2 p hp

theorem Memory.wf_nil (c : Cfg) : Memory.wf c [] := by simp [Memory.wf]

/-- Folding writes keeps the canonical form. -/
theorem Memory.wf_foldl {α : Type} {c : Cfg} {f : Memory → α → Memory} (xs : List α)
    (hf : ∀ m, ∀ x ∈ xs, Memory.wf c m → Memory.wf c (f m x)) {m : Memory} (h : m.wf c) :
    Memory.wf c (xs.foldl f m) := by
  induction xs generalizing m with
  | nil => exact h
  | cons x xs ih =>
    exact ih (fun m y hy => hf m y (List.mem_cons_of_mem _ hy)) (hf m x List.mem_cons_self h)

/-! ## Canonical framebuffers that read alike are equal -/

theorem Memory.lookup_eq_none {m : Memory} {a : Nat} (h : ∀ p ∈ m, a < p.1) : m.lookup a = none := by
  induction m with
  | nil => rfl
  | cons cell m ih =>
    obtain ⟨k, w⟩ := cell
    have hk : a < k := h (k, w) List.mem_cons_self
    simp only [Memory.lookup]
    rw [if_neg (by omega)]
    exact ih fun p hp => h p (List.mem_cons_of_mem _ hp)

theorem Memory.ext_lookup {m n : Memory} (hm : List.Pairwise (fun p q : Host.Cell => p.1 < q.1) m)
    (hn : List.Pairwise (fun p q : Host.Cell => p.1 < q.1) n) (h : ∀ a, m.lookup a = n.lookup a) : m = n := by
  induction m generalizing n with
  | nil =>
    cases n with
    | nil => rfl
    | cons q n => have := h q.1; simp [Memory.lookup] at this
  | cons p m ih =>
    cases n with
    | nil => have := h p.1; simp [Memory.lookup] at this
    | cons q n =>
      obtain ⟨k, v⟩ := p
      obtain ⟨l, w⟩ := q
      rw [List.pairwise_cons] at hm hn
      have hml : ∀ a, a ≤ k → Memory.lookup m a = none := fun a ha =>
        Memory.lookup_eq_none fun p hp => by have := hm.1 p hp; simp only at this; omega
      have hnl : ∀ a, a ≤ l → Memory.lookup n a = none := fun a ha =>
        Memory.lookup_eq_none fun p hp => by have := hn.1 p hp; simp only at this; omega
      have hkl : k = l := by
        rcases Nat.lt_trichotomy k l with hlt | heq | hgt
        · have := h k
          simp only [Memory.lookup, if_true, if_neg (show ¬ l = k by omega), hnl k (by omega)] at this
          cases this
        · exact heq
        · have := h l
          simp only [Memory.lookup, if_true, if_neg (show ¬ k = l by omega), hml l (by omega)] at this
          cases this
      subst hkl
      have hvw : v = w := by simpa [Memory.lookup] using h k
      subst hvw
      congr 1
      refine ih hm.2 hn.2 fun a => ?_
      by_cases hka : k = a
      · subst hka; rw [hml k le_rfl, hnl k le_rfl]
      · simpa [Memory.lookup, hka] using h a

theorem Memory.lookup_mem {m : Memory} {a : Nat} {v : Byte} (h : m.lookup a = some v) : (a, v) ∈ m := by
  induction m with
  | nil => cases h
  | cons cell m ih =>
    obtain ⟨k, w⟩ := cell
    simp only [Memory.lookup] at h
    split at h
    · subst_vars; cases h; simp
    · exact List.mem_cons_of_mem _ (ih h)

theorem Memory.lookup_of_wf {c : Cfg} {m : Memory} (h : m.wf c) (a : Nat) :
    m.lookup a = if a < 1024 ∧ m.read c a ≠ resetByte c a then some (m.read c a) else none := by
  cases hl : m.lookup a with
  | none => simp [Memory.read, hl]
  | some v =>
    have := h.2 _ (Memory.lookup_mem hl)
    simp_all [Memory.read]

/-- Two canonical framebuffers that read alike at every address of `FB` are the same list. -/
theorem Memory.ext {c : Cfg} {m n : Memory} (hm : m.wf c) (hn : n.wf c)
    (h : ∀ a < 1024, m.read c a = n.read c a) : m = n := by
  refine Memory.ext_lookup hm.1 hn.1 fun a => ?_
  rw [Memory.lookup_of_wf hm, Memory.lookup_of_wf hn]
  by_cases ha : a < 1024
  · rw [h a ha]
  · simp [ha]

/-! ## CLEAR's loop -/

theorem clearFb_wf {c : Cfg} {m : Memory} (h : m.wf c) : (clearFb c m).wf c :=
  Memory.wf_foldl _ (fun _ _ hx hm => Memory.wf_write hm (List.mem_range.1 hx) 0) h

/-- Writing one value to the first `n` addresses. -/
theorem Memory.read_foldl_write (c : Cfg) (v : Byte) (n : Nat) (m : Memory) (a : Nat) :
    ((List.range n).foldl (fun m ci => m.write c ci v) m).read c a = if a < n then v else m.read c a := by
  induction n with
  | zero => simp
  | succ n ih =>
    rw [List.range_succ, List.foldl_append, List.foldl_cons, List.foldl_nil, Memory.read_write, ih]
    by_cases h : n = a
    · simp [h]
    · by_cases h' : a < n
      · simp [h, h', Nat.lt_succ_of_lt h']
      · simp [h, h', show ¬ a < n + 1 by omega]

/-- After CLEAR's loop every byte of `FB` is zero (R71). -/
theorem clearFb_read (c : Cfg) (m : Memory) {a : Nat} (ha : a < 1024) : (clearFb c m).read c a = 0 := by
  rw [clearFb, Memory.read_foldl_write, if_pos ha]

end Sys2Proof.Machine
end

