-- ==== Sys2Proof/Laws/Pixel.lean ====
section
/-! SUPPORT. The laws of the pixel map, the pixel setter and the glyph rasterizer, in terms of the observation function
`pixel(x, y)`. -/

namespace Sys2Proof.Machine

/-! ## The pixel map (R30) -/

theorem pixelAddr_lt {x y : Nat} (hx : x < 128) (hy : y < 64) : pixelAddr x y < 1024 := by
  unfold pixelAddr pageOf; omega

theorem bitOf_lt (y : Nat) : bitOf y < 8 := by unfold bitOf; omega

/-- The map from coordinates to (address, bit) is injective on the screen. -/
theorem pixelAddr_bitOf_inj {x y x' y' : Nat} (hx : x < 128) (hx' : x' < 128)
    (ha : pixelAddr x y = pixelAddr x' y') (hb : bitOf y = bitOf y') : x = x' ∧ y = y' := by
  unfold pixelAddr pageOf at ha; unfold bitOf at hb; omega

/-- Bit `b` of byte `a` is the pixel `(a mod 128, (a div 128)·8 + b)` (the inverse of the pixel map, R30). -/
theorem Memory.getLsbD_read (c : Cfg) (m : Memory) (a : Nat) {b : Nat} (hb : b < 8) :
    (m.read c a).getLsbD b = m.pixel c (a % 128) (a / 128 * 8 + b) := by
  have h1 : pixelAddr (a % 128) (a / 128 * 8 + b) = a := by unfold pixelAddr pageOf; omega
  have h2 : bitOf (a / 128 * 8 + b) = b := by unfold bitOf; omega
  rw [Memory.pixel, h1, h2]

/-- Two framebuffers with the same pixels have the same bytes. -/
theorem Memory.read_eq_of_pixel {c : Cfg} {m n : Memory}
    (h : ∀ x < 128, ∀ y < 64, m.pixel c x y = n.pixel c x y) {a : Nat} (ha : a < 1024) : m.read c a = n.read c a := by
  refine BitVec.eq_of_getLsbD_eq fun b hb => ?_
  rw [Memory.getLsbD_read c m a hb, Memory.getLsbD_read c n a hb]
  exact h _ (by omega) _ (by omega)

theorem getLsbD_bitMask (k b : Nat) (hb : b < 8) : (bitMask k).getLsbD b = decide (k = b) := by
  unfold bitMask
  rw [BitVec.getLsbD_shiftLeft]
  by_cases h : k = b
  · subst h; simp [hb]
  · by_cases h' : b < k
    · simp [h, h']
    · have : ¬ b - k = 0 := by omega
      simp [h, this]

/-- Setting or clearing bit `k` of a byte: "leaving all other bits untouched" (R72). -/
theorem getLsbD_setBit (v : Byte) (k : Nat) (on : Bool) {b : Nat} (hb : b < 8) :
    (if on then v ||| bitMask k else v &&& ~~~bitMask k).getLsbD b = if k = b then on else v.getLsbD b := by
  cases on
  · simp only [Bool.false_eq_true, if_false, BitVec.getLsbD_and, BitVec.getLsbD_not, getLsbD_bitMask k b hb, hb,
      decide_true, Bool.true_and]
    by_cases h : k = b <;> simp only [h, decide_true, decide_false, Bool.not_true, Bool.not_false, Bool.and_false,
      Bool.and_true, if_true, if_false]
  · simp only [if_true, BitVec.getLsbD_or, getLsbD_bitMask k b hb]
    by_cases h : k = b <;> simp only [h, decide_true, decide_false, Bool.or_true, Bool.or_false, if_true, if_false]

/-! ## The pixel setter (R72, R73) -/

/-- What `SetPixel` does to every pixel of the screen: the named pixel takes `on`, the others keep their value. Off the
screen no pixel is named. -/
theorem setPixel_pixel (c : Cfg) (x y : Int) (on : Bool) (m : Memory) {x' y' : Nat} (hx' : x' < 128) (hy' : y' < 64) :
    (setPixel c x y on m).pixel c x' y' = if x = x' ∧ y = y' then on else m.pixel c x' y' := by
  by_cases hs : onScreen x y
  · obtain ⟨h1, h2, h3, h4⟩ := hs
    obtain ⟨u, rfl⟩ := Int.eq_ofNat_of_zero_le h1
    obtain ⟨v, rfl⟩ := Int.eq_ofNat_of_zero_le h3
    have hu : u < 128 := by omega
    have hv : v < 64 := by omega
    simp only [setPixel, onScreen, h1, h2, h3, h4, and_self, if_true, Int.toNat_natCast, Memory.pixel, Memory.read_write]
    by_cases ha : pixelAddr u v = pixelAddr x' y'
    · rw [if_pos ha, ha, getLsbD_setBit _ _ _ (bitOf_lt y')]
      by_cases hb : bitOf v = bitOf y'
      · obtain ⟨rfl, rfl⟩ := pixelAddr_bitOf_inj hu hx' ha hb
        simp
      · rw [if_neg hb, if_neg]
        rintro ⟨-, h⟩
        exact hb (by rw [Int.natCast_inj.1 h])
    · rw [if_neg ha, if_neg]
      rintro ⟨h, h'⟩
      exact ha (by rw [Int.natCast_inj.1 h, Int.natCast_inj.1 h'])
  · rw [setPixel, if_neg hs, if_neg]
    rintro ⟨rfl, rfl⟩
    exact hs ⟨by omega, by omega, by omega, by omega⟩

theorem setPixel_wf {c : Cfg} (x y : Int) (on : Bool) {m : Memory} (h : m.wf c) : (setPixel c x y on m).wf c := by
  unfold setPixel
  split
  · rename_i hs
    obtain ⟨h1, h2, h3, h4⟩ := hs
    exact Memory.wf_write h (pixelAddr_lt (by omega) (by omega)) _
  · exact h

/-- Off the screen `SetPixel` is a no-op on the whole framebuffer (R72). -/
theorem setPixel_off {c : Cfg} {x y : Int} (on : Bool) (m : Memory) (h : ¬ onScreen x y) : setPixel c x y on m = m :=
  if_neg h

/-- On the screen `SetPixel` touches one byte only. -/
theorem setPixel_read_other {c : Cfg} {x y : Int} (on : Bool) (m : Memory) {a : Nat}
    (h : onScreen x y → a ≠ pixelAddr x.toNat y.toNat) : (setPixel c x y on m).read c a = m.read c a := by
  unfold setPixel
  split
  · rename_i hs; exact Memory.read_write_other c m _ (Ne.symm (h hs))
  · rfl

/-! ## The rasterizer (R84) -/

/-- The first `n` rows of a glyph column. -/
theorem drawRows_pixel (c : Cfg) (x y : Int) (f : Nat → Bool) (n : Nat) (m : Memory) {x' y' : Nat} (hx' : x' < 128)
    (hy' : y' < 64) :
    ((List.range n).foldl (fun m (j : Nat) => setPixel c x (y + j) (f j) m) m).pixel c x' y' =
      if x = x' ∧ y ≤ y' ∧ (y' : Int) < y + n then f (y' - y).toNat else m.pixel c x' y' := by
  induction n with
  | zero => rw [if_neg (by omega)]; rfl
  | succ n ih =>
    rw [List.range_succ, List.foldl_append, List.foldl_cons, List.foldl_nil, setPixel_pixel c _ _ _ _ hx' hy', ih]
    by_cases h : x = x' ∧ y + n = y'
    · rw [if_pos h, if_pos (by omega)]
      congr 1
      omega
    · rw [if_neg h]
      by_cases h' : x = x' ∧ y ≤ y' ∧ (y' : Int) < y + n
      · rw [if_pos h', if_pos (by omega)]
      · rw [if_neg h', if_neg (by push_cast; omega)]

theorem drawColumn_pixel (c : Cfg) (x y : Int) (g : Byte) (color : Bool) (m : Memory) {x' y' : Nat} (hx' : x' < 128)
    (hy' : y' < 64) :
    (drawColumn c x y g color m).pixel c x' y' =
      if x = x' ∧ y ≤ y' ∧ (y' : Int) < y + 8 then glyphColor g (y' - y).toNat color else m.pixel c x' y' :=
  drawRows_pixel c x y (fun j => glyphColor g j color) 8 m hx' hy'

/-- The first `n` columns of a glyph. -/
theorem drawColumns_pixel (c : Cfg) (x y : Int) (g : Nat → Byte) (color : Bool) (n : Nat) (m : Memory) {x' y' : Nat}
    (hx' : x' < 128) (hy' : y' < 64) :
    ((List.range n).foldl (fun m (i : Nat) => drawColumn c (x + i) y (g i) color m) m).pixel c x' y' =
      if x ≤ x' ∧ (x' : Int) < x + n ∧ y ≤ y' ∧ (y' : Int) < y + 8 then
        glyphColor (g (x' - x).toNat) (y' - y).toNat color
      else m.pixel c x' y' := by
  induction n with
  | zero => rw [if_neg (by omega)]; rfl
  | succ n ih =>
    rw [List.range_succ, List.foldl_append, List.foldl_cons, List.foldl_nil, drawColumn_pixel c _ _ _ _ _ hx' hy', ih]
    by_cases h : x + n = x' ∧ y ≤ y' ∧ (y' : Int) < y + 8
    · rw [if_pos h, if_pos (by omega)]
      congr 2
      omega
    · rw [if_neg h]
      by_cases h' : x ≤ x' ∧ (x' : Int) < x + n ∧ y ≤ y' ∧ (y' : Int) < y + 8
      · rw [if_pos h', if_pos (by omega)]
      · rw [if_neg h', if_neg (by push_cast; omega)]

/-- The cell of a glyph at `(x, y)` holds pixel `(x', y')`. -/
abbrev inCell (x y : Int) (x' y' : Nat) : Prop := x ≤ x' ∧ (x' : Int) < x + 5 ∧ y ≤ y' ∧ (y' : Int) < y + 8

/-- What `DrawChar` does to every pixel of the screen: inside the cell the glyph's color, outside nothing. -/
theorem drawChar_pixel (c : Cfg) (x y : Int) {ch : Byte} (hc : hasGlyph ch) (color : Bool) (m : Memory) {x' y' : Nat}
    (hx' : x' < 128) (hy' : y' < 64) :
    (drawChar c x y ch color m).pixel c x' y' =
      if inCell x y x' y' then glyphColor (romRead c ch (x' - x).toNat) (y' - y).toNat color else m.pixel c x' y' := by
  rw [drawChar, if_pos hc]
  exact drawColumns_pixel c x y (romRead c ch) color 5 m hx' hy'

/-- A code without a glyph draws nothing (R84). -/
theorem drawChar_noGlyph (c : Cfg) (x y : Int) {ch : Byte} (hc : ¬ hasGlyph ch) (color : Bool) (m : Memory) :
    drawChar c x y ch color m = m := if_neg hc

theorem drawColumn_wf {c : Cfg} (x y : Int) (g : Byte) (color : Bool) {m : Memory} (h : m.wf c) :
    (drawColumn c x y g color m).wf c :=
  Memory.wf_foldl _ (fun _ _ _ hm => setPixel_wf _ _ _ hm) h

theorem drawChar_wf {c : Cfg} (x y : Int) (ch : Byte) (color : Bool) {m : Memory} (h : m.wf c) :
    (drawChar c x y ch color m).wf c := by
  unfold drawChar
  split
  · exact Memory.wf_foldl _ (fun _ _ _ hm => drawColumn_wf _ _ _ _ hm) h
  · exact h

/-- The glyph color, bit by bit: the glyph byte with `color` = 1, its complement with `color` = 0 (R84, R86). -/
theorem glyphColor_eq_inked (g : Byte) {j : Nat} (hj : j < 8) (color : Bool) :
    glyphColor g j color = (inked g color).getLsbD j := by
  unfold glyphColor inked
  cases color <;> simp only [Bool.false_eq_true, if_false, if_true, BitVec.getLsbD_not, hj, decide_true, Bool.true_and] <;>
    cases g.getLsbD j <;> rfl

/-- What `DrawChar` does to bit `b` of byte `u + 128·p` (R86): inside the cell the bit of the inked glyph byte. -/
theorem drawChar_getLsbD_read (c : Cfg) (x y : Int) {ch : Byte} (hc : hasGlyph ch) (color : Bool) (m : Memory) {u p b : Nat}
    (hu : u < 128) (hp : p < 8) (hb : b < 8) :
    ((drawChar c x y ch color m).read c (u + p * 128)).getLsbD b =
      if inCell x y u (8 * p + b) then
        (inked (romRead c ch (u - x).toNat) color).getLsbD (((8 * p + b : Nat) : Int) - y).toNat
      else (m.read c (u + p * 128)).getLsbD b := by
  rw [Memory.getLsbD_read c _ _ hb, Memory.getLsbD_read c _ _ hb, show (u + p * 128) % 128 = u by omega,
    show (u + p * 128) / 128 * 8 + b = 8 * p + b by omega, drawChar_pixel c x y hc color m hu (by omega)]
  split
  · rename_i h
    obtain ⟨h1, h2, h3, h4⟩ := h
    rw [glyphColor_eq_inked _ (by omega)]
  · rfl

end Sys2Proof.Machine
end

