-- ==== Sys2Proof/Laws/Bus.lean ====
section
/-! SUPPORT. The laws of one bus transaction, of the sequencer's transactions, and of what they leave unchanged. -/

namespace Sys2Proof.Machine

/-! ## The sequencer's moves -/

theorem State.enterInit_more {s : State} {is : Nat} (h : is < s.cfg.initSeq.length) :
    s.enterInit is = { s with seq := .initStep is } := if_pos h

theorem State.enterInit_done {s : State} {is : Nat} (h : s.cfg.initSeq.length ≤ is) :
    s.enterInit is = s.setReady.complete .ok := if_neg (by omega)

theorem State.enterPageAfter_more {s : State} {pg : Fin 8} (h : pg.val + 1 < 8) :
    s.enterPageAfter pg = { s with seq := .pageCmd ⟨pg.val + 1, h⟩ .select } := dif_pos h

theorem State.enterPageAfter_last {s : State} {pg : Fin 8} (h : ¬ pg.val + 1 < 8) :
    s.enterPageAfter pg = s.complete .ok := dif_neg h

/-! ## One transaction, by the transport's answer -/

theorem State.sendCommand_waiting {s : State} (pos : Option CtlPos) (b : Byte) (h : s.answers = []) :
    s.sendCommand pos b = s := by
  simp only [State.sendCommand, State.sendCmd, State.busWrite, h]

theorem State.sendCommand_ack {s : State} (pos : Option CtlPos) (b : Byte) {rest : List BusAnswer}
    (h : s.answers = .ack :: rest) :
    s.sendCommand pos b =
      State.afterCommand
        { s with
          answers := rest
          trace := s.trace ++ [⟨Config.devAddr, cmdPayload b, .ack⟩]
          controller := s.controller.takeCommand s.panelSaid pos b } := by
  simp only [State.sendCommand, State.sendCmd, State.busWrite, h]

theorem State.sendCommand_fault {s : State} (pos : Option CtlPos) (b : Byte) {e : FaultInfo} {rest : List BusAnswer}
    (h : s.answers = .fault e :: rest) :
    s.sendCommand pos b =
      State.raiseBusFault e (State.dropReady pos
        { s with
          answers := rest
          trace := s.trace ++ [⟨Config.devAddr, cmdPayload b, .fault e⟩]
          controller := s.controller.missCommand s.panelSaid pos }) := by
  simp only [State.sendCommand, State.sendCmd, State.busWrite, h]

theorem State.sendSlice_waiting {s : State} (d : List Byte) (h : s.answers = []) : s.sendSlice d = s := by
  simp only [State.sendSlice, State.sendData, State.busWrite, h]

theorem State.sendSlice_ack {s : State} (d : List Byte) {rest : List BusAnswer} (h : s.answers = .ack :: rest) :
    s.sendSlice d =
      State.afterData
        { s with
          answers := rest
          trace := s.trace ++ [⟨Config.devAddr, dataPayload d, .ack⟩]
          controller := s.controller.takeData s.panelSaid d
          latches := { s.latches with col := 127 } } := by
  simp only [State.sendSlice, State.sendData, State.busWrite, h]

theorem State.sendSlice_fault {s : State} (d : List Byte) {e : FaultInfo} {rest : List BusAnswer}
    (h : s.answers = .fault e :: rest) :
    s.sendSlice d =
      State.raiseBusFault e
        { s with
          answers := rest
          trace := s.trace ++ [⟨Config.devAddr, dataPayload d, .fault e⟩]
          controller := s.controller.missData s.panelSaid } := by
  simp only [State.sendSlice, State.sendData, State.busWrite, h]

/-! ## What the controller makes of a transaction (R22, R124) -/

theorem Controller.unsaid_forget (k : Controller) : k.forget.unsaid := ⟨k.draws, rfl⟩

/-- Where nothing is said of the panel, nothing is said after any transaction either. -/
theorem Controller.takeCommand_unsaid (pos : Option CtlPos) (b : Byte) (k : Controller) :
    (k.takeCommand false pos b).unsaid := by
  rcases pos with - | pos
  · exact Controller.unsaid_forget k
  · cases pos <;> exact Controller.unsaid_forget k

theorem Controller.missCommand_unsaid (pos : Option CtlPos) (k : Controller) : (k.missCommand false pos).unsaid := by
  rcases pos with - | pos
  · exact Controller.unsaid_forget k
  · cases pos <;> exact Controller.unsaid_forget k

theorem Controller.setPage_unsaid (p : Fin 8 → Vector Byte 128) (k : Controller) : (k.setPage false p).unsaid := by
  rw [Controller.setPage, if_neg (by simp)]; exact Controller.unsaid_forget k

theorem Controller.takeData_unsaid (d : List Byte) (k : Controller) : (k.takeData false d).unsaid := by
  unfold Controller.takeData; split
  · exact Controller.setPage_unsaid _ k
  · exact Controller.unsaid_forget k

theorem Controller.missData_unsaid (k : Controller) : (k.missData false).unsaid := Controller.setPage_unsaid _ k

/-- A byte of INIT, faulted, leaves nothing said. -/
theorem Controller.missCommand_initEntry (said : Bool) (is : Nat) (k : Controller) :
    k.missCommand said (some (.initEntry is)) = k.forget := by
  cases said <;> rfl

/-- What a data transaction does where something is said and the column pointer is zero: the page pointer's page is
replaced, the other pages stay. -/
theorem Controller.setPage_page {k : Controller} (p : Fin 8 → Vector Byte 128) (hl : k.regs.colLow = 0)
    (hh : k.regs.colHigh = 0) (q : Fin 8) :
    (k.setPage true p).page q = if q = k.regs.pagePtr then (p q).toList else k.page q := by
  rw [Controller.setPage, if_pos ⟨rfl, hl, hh⟩]
  by_cases h : q = k.regs.pagePtr
  · subst h; simp only [Controller.page, Vector.getElem_set_self, if_pos]
  · rw [if_neg h]
    have hv : k.regs.pagePtr.val ≠ q.val := fun e => h (Fin.ext e.symm)
    simp only [Controller.page, Vector.getElem_set_ne _ _ hv]

/-- Acknowledged data of a page's length, by pages. -/
theorem Controller.takeData_page {k : Controller} {d : List Byte} (hd : d.length = 128) (hl : k.regs.colLow = 0)
    (hh : k.regs.colHigh = 0) (q : Fin 8) :
    (k.takeData true d).page q = if q = k.regs.pagePtr then d else k.page q := by
  rw [Controller.takeData, dif_pos hd, Controller.setPage_page _ hl hh]
  rfl

/-! ## What a transaction leaves unchanged: everything a bus transaction has no business with -/

/-- The fields no bus transaction touches: the configuration, the framebuffer, the command port and the text port. -/
def SameStores (s t : State) : Prop := t.cfg = s.cfg ∧ t.fb = s.fb ∧ t.cmds = s.cmds ∧ t.text = s.text

theorem SameStores.refl (s : State) : SameStores s s := ⟨rfl, rfl, rfl, rfl⟩

theorem SameStores.trans {s t u : State} (h : SameStores s t) (h' : SameStores t u) : SameStores s u :=
  ⟨h'.1.trans h.1, h'.2.1.trans h.2.1, h'.2.2.1.trans h.2.2.1, h'.2.2.2.trans h.2.2.2⟩

theorem SameStores.complete (s : State) (r : Completion) : SameStores s (s.complete r) := ⟨rfl, rfl, rfl, rfl⟩

theorem SameStores.enterInit (s : State) (is : Nat) : SameStores s (s.enterInit is) := by
  unfold State.enterInit; split <;> exact ⟨rfl, rfl, rfl, rfl⟩

theorem SameStores.enterPageAfter (s : State) (pg : Fin 8) : SameStores s (s.enterPageAfter pg) := by
  unfold State.enterPageAfter; split <;> exact ⟨rfl, rfl, rfl, rfl⟩

theorem SameStores.afterCommand (s : State) : SameStores s s.afterCommand := by
  unfold State.afterCommand
  split
  · exact SameStores.enterInit s _
  all_goals exact ⟨rfl, rfl, rfl, rfl⟩

theorem SameStores.afterData (s : State) : SameStores s s.afterData := by
  unfold State.afterData
  split
  · exact SameStores.enterPageAfter s _
  · exact ⟨rfl, rfl, rfl, rfl⟩

theorem SameStores.dropReady (s : State) (pos : Option CtlPos) : SameStores s (s.dropReady pos) := by
  unfold State.dropReady; split <;> exact ⟨rfl, rfl, rfl, rfl⟩

theorem SameStores.sendCommand (s : State) (pos : Option CtlPos) (b : Byte) : SameStores s (s.sendCommand pos b) := by
  cases h : s.answers with
  | nil => rw [State.sendCommand_waiting pos b h]; exact SameStores.refl s
  | cons a rest =>
    cases a with
    | ack => rw [State.sendCommand_ack pos b h]; exact SameStores.trans ⟨rfl, rfl, rfl, rfl⟩ (SameStores.afterCommand _)
    | fault e =>
      rw [State.sendCommand_fault pos b h]
      exact SameStores.trans (SameStores.trans (t := { s with
        answers := rest
        trace := s.trace ++ [⟨Config.devAddr, cmdPayload b, .fault e⟩]
        controller := s.controller.missCommand s.panelSaid pos }) ⟨rfl, rfl, rfl, rfl⟩ (SameStores.dropReady _ pos))
        (SameStores.complete _ (.busFault e))

theorem SameStores.sendSlice (s : State) (d : List Byte) : SameStores s (s.sendSlice d) := by
  cases h : s.answers with
  | nil => rw [State.sendSlice_waiting d h]; exact SameStores.refl s
  | cons a rest =>
    cases a with
    | ack => rw [State.sendSlice_ack d h]; exact SameStores.trans ⟨rfl, rfl, rfl, rfl⟩ (SameStores.afterData _)
    | fault e => rw [State.sendSlice_fault d h]; exact ⟨rfl, rfl, rfl, rfl⟩

theorem SameStores.busStep (s : State) : SameStores s s.busStep := by
  unfold State.busStep
  split
  · split
    · exact SameStores.sendCommand s _ _
    · exact SameStores.refl s
  · exact SameStores.sendCommand s _ _
  · exact SameStores.sendSlice s _
  · exact SameStores.refl s

theorem SameStores.runBus (n : Nat) (s : State) : SameStores s (runBus n s) := by
  induction n generalizing s with
  | zero => exact SameStores.refl s
  | succ n ih => exact SameStores.trans (SameStores.busStep s) (ih _)

/-! ## The transaction of each position -/

theorem State.busStep_initStep {s : State} {is : Nat} {b : Byte} (hq : s.seq = .initStep is)
    (hb : s.cfg.initSeq[is]? = some b) : s.busStep = s.sendCommand (some (.initEntry is)) b := by
  simp only [State.busStep, hq, hb]

theorem State.busStep_pageCmd {s : State} {pg : Fin 8} {k : PageCmdKind} (hq : s.seq = .pageCmd pg k) :
    s.busStep = s.sendCommand (some (pagePos pg k)) (pageByte s.cfg pg k) := by
  simp only [State.busStep, hq]

theorem State.busStep_pageData {s : State} {pg : Fin 8} (hq : s.seq = .pageData pg) :
    s.busStep = s.sendSlice (s.slice pg) := by
  simp only [State.busStep, hq]

theorem State.busStep_idle {s : State} (hq : s.seq = .idle) : s.busStep = s := by
  simp only [State.busStep, hq]

/-- An idle block makes no transaction. -/
theorem runBus_idle (n : Nat) {s : State} (hq : s.seq = .idle) : runBus n s = s := by
  induction n with
  | zero => rfl
  | succ n ih => rw [runBus, State.busStep_idle hq, ih]

/-- Nothing happens while the transport has not answered (R150). -/
theorem State.busStep_waiting {s : State} (h : s.answers = []) : s.busStep = s := by
  unfold State.busStep
  split
  · split
    · exact State.sendCommand_waiting _ _ h
    · rfl
  · exact State.sendCommand_waiting _ _ h
  · exact State.sendSlice_waiting _ h
  · rfl

theorem runBus_waiting (n : Nat) {s : State} (h : s.answers = []) : runBus n s = s := by
  induction n with
  | zero => rfl
  | succ n ih => rw [runBus, State.busStep_waiting h, ih]

end Sys2Proof.Machine
end

