-- ==== Sys2Proof/Laws/Decode.lean ====
section
/-! SUPPORT. The laws of the decoder and the encoder: how a command word's fields decide its row, and which fields a packed
word has. -/

namespace Sys2Proof

/-! ## Legal and illegal words (R55) -/

/-- The bits of a field are bits of the word. -/
theorem getLsbD_of_field_eq {w w' : CmdWord} {start len : Nat} (h : w.extractLsb' start len = w'.extractLsb' start len)
    {i : Nat} (hi : i < len) : w.getLsbD (start + i) = w'.getLsbD (start + i) := by
  have := congrArg (fun v => BitVec.getLsbD v i) h
  simpa only [BitVec.getLsbD_extractLsb', hi, decide_true, Bool.true_and] using this

theorem rsv_eq_zero_iff (w : CmdWord) :
    w.extractLsb' 4 4 = 0 ↔
      w.getLsbD 4 = false ∧ w.getLsbD 5 = false ∧ w.getLsbD 6 = false ∧ w.getLsbD 7 = false := by
  constructor
  · intro h
    have hb : ∀ i < 4, w.getLsbD (4 + i) = false := fun i hi => by
      have := congrArg (fun v => BitVec.getLsbD v i) h
      simpa only [BitVec.getLsbD_extractLsb', hi, decide_true, Bool.true_and, BitVec.ofNat_eq_ofNat, BitVec.getLsbD_zero]
        using this
    exact ⟨hb 0 (by omega), hb 1 (by omega), hb 2 (by omega), hb 3 (by omega)⟩
  · rintro ⟨h0, h1, h2, h3⟩
    refine BitVec.eq_of_getLsbD_eq fun i hi => ?_
    rw [BitVec.getLsbD_extractLsb']
    obtain rfl | rfl | rfl | rfl : i = 0 ∨ i = 1 ∨ i = 2 ∨ i = 3 := by omega
    all_goals simp only [h0, h1, h2, h3, Nat.reduceAdd, Nat.add_zero, Bool.and_false, BitVec.ofNat_eq_ofNat, BitVec.getLsbD_zero]

/-- `rsv` = 0 exactly if the word has no illegal row of `rsv`. -/
theorem reservedRow_eq_none_iff (w : CmdWord) : reservedRow w = none ↔ w.extractLsb' 4 4 = 0 := by
  rw [rsv_eq_zero_iff, reservedRow]
  cases w.getLsbD 7 <;> cases w.getLsbD 6 <;> cases w.getLsbD 5 <;> cases w.getLsbD 4 <;> decide

theorem reservedRow_cases (w : CmdWord) :
    reservedRow w = none ∨ reservedRow w = some .reservedRsv7 ∨ reservedRow w = some .reservedRsv6 ∨
      reservedRow w = some .reservedRsv5 ∨ reservedRow w = some .reservedRsv4 := by
  unfold reservedRow; split_ifs <;> simp

/-- With `rsv` = 0 the row is that of `op`. -/
theorem decodeCmd_of_rsv_zero {w : CmdWord} (h : w.extractLsb' 4 4 = 0) : decodeCmd w = opRow w := by
  rw [decodeCmd, (reservedRow_eq_none_iff w).2 h]; rfl

theorem fieldOp_lt (w : CmdWord) : fieldOp w < 8 := (w.extractLsb' 0 3).isLt

/-! ## Coordinates (R53) -/

theorem coordOk_iff (v : Int) : coordOk v = true ↔ -32768 ≤ v ∧ v ≤ 32767 := by
  unfold coordOk; rw [Bool.and_eq_true, decide_eq_true_iff, decide_eq_true_iff]

/-- Every coordinate field is in −32768 to 32767. -/
theorem coordOk_toInt (v : BitVec 16) : coordOk v.toInt = true := by
  have h1 := BitVec.toInt_lt (x := v)
  have h2 := BitVec.le_toInt (x := v)
  rw [coordOk_iff]
  omega

/-- A coordinate in range survives its field. -/
theorem toInt_ofInt_of_coordOk {v : Int} (h : coordOk v = true) : (BitVec.ofInt 16 v).toInt = v := by
  rw [coordOk_iff] at h
  rw [BitVec.toInt_ofInt, Int.bmod_def]
  omega

/-! ## The fields of a packed word (R51) -/

section
variable (y x : Int) (c : Byte) (rsv : BitVec 4) (on : Bool) (op : BitVec 3)

/-- Bit `i` of a packed word. -/
theorem getLsbD_packCmd (i : Nat) :
    (packCmd y x c rsv on op).getLsbD i =
      if i < 3 then op.getLsbD i
      else if i - 3 < 1 then (BitVec.ofBool on).getLsbD (i - 3)
      else if i - 3 - 1 < 4 then rsv.getLsbD (i - 3 - 1)
      else if i - 3 - 1 - 4 < 8 then c.getLsbD (i - 3 - 1 - 4)
      else if i - 3 - 1 - 4 - 8 < 16 then (BitVec.ofInt 16 x).getLsbD (i - 3 - 1 - 4 - 8)
      else (BitVec.ofInt 16 y).getLsbD (i - 3 - 1 - 4 - 8 - 16) := by
  unfold packCmd
  simp only [BitVec.getLsbD_append]

theorem packCmd_op : (packCmd y x c rsv on op).extractLsb' 0 3 = op :=
  BitVec.eq_of_getLsbD_eq fun i hi => by
    rw [BitVec.getLsbD_extractLsb', getLsbD_packCmd, if_pos (by omega), Nat.zero_add, decide_eq_true hi, Bool.true_and]

theorem packCmd_on : (packCmd y x c rsv on op).getLsbD 3 = on := by
  rw [getLsbD_packCmd, if_neg (by omega), if_pos (by omega)]; cases on <;> rfl

theorem packCmd_rsv : (packCmd y x c rsv on op).extractLsb' 4 4 = rsv :=
  BitVec.eq_of_getLsbD_eq fun i hi => by
    rw [BitVec.getLsbD_extractLsb', getLsbD_packCmd, if_neg (by omega), if_neg (by omega), if_pos (by omega),
      show 4 + i - 3 - 1 = i by omega, decide_eq_true hi, Bool.true_and]

theorem packCmd_c : (packCmd y x c rsv on op).extractLsb' 8 8 = c :=
  BitVec.eq_of_getLsbD_eq fun i hi => by
    rw [BitVec.getLsbD_extractLsb', getLsbD_packCmd, if_neg (by omega), if_neg (by omega), if_neg (by omega),
      if_pos (by omega), show 8 + i - 3 - 1 - 4 = i by omega, decide_eq_true hi, Bool.true_and]

theorem packCmd_x : (packCmd y x c rsv on op).extractLsb' 16 16 = BitVec.ofInt 16 x :=
  BitVec.eq_of_getLsbD_eq fun i hi => by
    rw [BitVec.getLsbD_extractLsb', getLsbD_packCmd, if_neg (by omega), if_neg (by omega), if_neg (by omega),
      if_neg (by omega), if_pos (by omega), show 16 + i - 3 - 1 - 4 - 8 = i by omega, decide_eq_true hi, Bool.true_and]

theorem packCmd_y : (packCmd y x c rsv on op).extractLsb' 32 16 = BitVec.ofInt 16 y :=
  BitVec.eq_of_getLsbD_eq fun i hi => by
    rw [BitVec.getLsbD_extractLsb', getLsbD_packCmd, if_neg (by omega), if_neg (by omega), if_neg (by omega),
      if_neg (by omega), if_neg (by omega), show 32 + i - 3 - 1 - 4 - 8 - 16 = i by omega, decide_eq_true hi,
      Bool.true_and]

end

end Sys2Proof
end

