-- ==== Sys2Proof/Laws/Step.lean ====
section
/-! SUPPORT. What one step can do, said once: `step_cases`. -/

namespace Sys2Proof.Machine

/-! ## The instruction of a position -/

theorem ctlInstr_pageSelect (pg : Fin 8) (b : Byte) :
    ctlInstr (.pageSelect pg) b = if b = pageSelectByte pg then .ctlPageSelect pg else .busCmd b := by
  unfold ctlInstr decodeCtl
  by_cases h : b = pageSelectByte pg <;> simp [h]

theorem ctlInstr_colLow (b : Byte) : ctlInstr .colLow b = if b = 0x00#8 then .ctlColLow else .busCmd b := by
  unfold ctlInstr decodeCtl
  by_cases h : b = 0x00#8 <;> simp [h]

theorem ctlInstr_colHigh (b : Byte) : ctlInstr .colHigh b = if b = 0x10#8 then .ctlColHigh else .busCmd b := by
  unfold ctlInstr decodeCtl
  by_cases h : b = 0x10#8 <;> simp [h]

theorem ctlInstr_of_decode {pos : CtlPos} {b : Byte} {i : Instr} (h : decodeCtl pos b = .ok i) : ctlInstr pos b = i := by
  simp only [ctlInstr, h]

theorem ctlInstr_of_not_decode {pos : CtlPos} {b : Byte} (h : ∀ i, decodeCtl pos b ≠ .ok i) :
    ctlInstr pos b = .busCmd b := by
  unfold ctlInstr
  split
  · exact absurd ‹_› (h _)
  · rfl

/-- A table row's instruction at its position sends that row's byte: the 27 entries of `INIT_SEQ`. -/
theorem exec_initSeqInstrs {k : Nat} {i : Instr} {b : Byte} (hi : initSeqInstrs[k]? = some i)
    (hb : Config.initSeqDefault[k]? = some b) (s : State) :
    exec i s = .next (s.sendCommand (some (.initEntry k)) b) := by
  have hk : k < 27 := by
    by_contra h
    rw [List.getElem?_eq_none (by simpa [initSeqInstrs] using h)] at hi
    cases hi
  interval_cases k <;> (cases hi; cases hb; rfl)

/-- The instruction `ctlInstr` names sends the byte, wherever the sequencer stands at that position. -/
theorem exec_ctlInstr {s : State} {pos : CtlPos} (hp : ctlPosAt s.seq = some pos) (b : Byte) :
    exec (ctlInstr pos b) s = .next (s.sendCommand (some pos) b) := by
  have hbus : exec (.busCmd b) s = .next (s.sendCommand (some pos) b) := by simp only [exec, execBusCmd, hp]
  unfold ctlInstr
  split
  · rename_i i hd
    cases pos with
    | pageSelect pg =>
      simp only [decodeCtl] at hd
      split at hd
      · cases hd; subst_vars; rfl
      · cases hd
    | colLow =>
      simp only [decodeCtl] at hd
      split at hd
      · cases hd; subst_vars; rfl
      · cases hd
    | colHigh =>
      simp only [decodeCtl] at hd
      split at hd
      · cases hd; subst_vars; rfl
      · cases hd
    | initEntry k =>
      simp only [decodeCtl] at hd
      split at hd
      · cases hd
      · split at hd
        · cases hd; exact exec_initSeqInstrs ‹_› ‹_› s
        · cases hd
  · exact hbus

/-- The positions at which the next step is a bus transaction. -/
def Seq.isBus : Seq → Prop
  | .initStep _ => True
  | .pageCmd _ _ => True
  | .pageData _ => True
  | _ => False

/-- What a step that goes on can do: nothing, for want of a command; a whole command; one transaction of the sequencer; or
one of its own moves. -/
theorem step_cases {s t : State} (h : step s = .next t) :
    (s.seq = .idle ∧ s.cmds = [] ∧ t = s) ∨
    (∃ c rest, s.seq = .idle ∧ s.cmds = c :: rest ∧ exec (decodeCmd c.word) (s.accept c rest) = .next t) ∨
    (s.seq.isBus ∧ t = s.busStep) ∨
    (s.seq ≠ .idle ∧ ¬ s.seq.isBus ∧ t = s.innerStep) := by
  unfold step at h
  cases hq : s.seq with
  | idle =>
    cases hc : s.cmds with
    | nil => left; simp only [State.fetch, hq, hc, Host.Outcome.next.injEq] at h; exact ⟨rfl, rfl, h.symm⟩
    | cons c rest =>
      right; left
      simp only [State.fetch, hq, hc] at h
      exact ⟨c, rest, rfl, rfl, h⟩
  | initStep is =>
    right; right; left
    refine ⟨trivial, ?_⟩
    cases hb : s.cfg.initSeq[is]? with
    | none => simp only [State.fetch, hq, hb] at h; cases h
    | some b =>
      simp only [State.fetch, hq, hb, exec_ctlInstr (show ctlPosAt s.seq = some (.initEntry is) by rw [hq]; rfl),
        Host.Outcome.next.injEq] at h
      rw [State.busStep_initStep hq hb, h]
  | pageCmd pg k =>
    right; right; left
    refine ⟨trivial, ?_⟩
    have hp : ctlPosAt s.seq = some (pagePos pg k) := by rw [hq]; cases k <;> rfl
    simp only [State.fetch, hq, exec_ctlInstr hp, Host.Outcome.next.injEq] at h
    rw [State.busStep_pageCmd hq, h]
  | pageData pg =>
    right; right; left
    simp only [State.fetch, hq, exec, execBusData, Host.Outcome.next.injEq] at h
    exact ⟨trivial, by rw [State.busStep_pageData hq, h]⟩
  | settle | clearing ci | pixel | glyph gi gj | nextChar =>
    right; right; right
    simp only [State.fetch, hq, Host.Outcome.next.injEq] at h
    exact ⟨by simp, by simp [Seq.isBus], h.symm⟩

/-- At a bus position of R14 the step is the transaction of that position. -/
theorem step_bus {s : State} (hq : s.seq.isBus)
    (hr : ∀ is, s.seq = .initStep is → is < s.cfg.initSeq.length) : step s = .next s.busStep := by
  cases hs : s.seq with
  | initStep is =>
    have hb := List.getElem?_eq_getElem (hr is hs)
    simp only [step, State.fetch, hs, hb, exec_ctlInstr (show ctlPosAt s.seq = some (.initEntry is) by rw [hs]; rfl)]
    rw [State.busStep_initStep hs hb]
  | pageCmd pg k =>
    simp only [step, State.fetch, hs, exec_ctlInstr (show ctlPosAt s.seq = some (pagePos pg k) by rw [hs]; cases k <;> rfl)]
    rw [State.busStep_pageCmd hs]
  | pageData pg =>
    simp only [step, State.fetch, hs, exec, execBusData]
    rw [State.busStep_pageData hs]
  | idle | settle | clearing _ | pixel | glyph _ _ | nextChar => rw [hs] at hq; exact hq.elim

/-- Every instruction goes on: no meaning faults or refuses. -/
theorem exec_next (i : Instr) (s : State) : ∃ t, exec i s = .next t := by
  cases i <;> exact ⟨_, rfl⟩

/-! ## The drawing commands' next states

To compare a field of one of these, rewrite with the lemmas of `State.complete` (Laws/State.lean): a bare `rfl` would unfold
CLEAR's 1024 writes. -/

theorem exec_clear (s : State) : exec .clear s = .next (State.complete .ok { s with fb := clearFb s.cfg s.fb }) := rfl

theorem exec_drawPixel (x y : Int) (on : Bool) (s : State) :
    exec (.drawPixel x y on) s = .next (State.complete .ok { s with fb := setPixel s.cfg x y on s.fb }) := rfl

theorem exec_drawChar (x y : Int) (ch : Byte) (on : Bool) (s : State) :
    exec (.drawChar x y ch on) s = .next (State.complete .ok { s with fb := drawChar s.cfg x y ch on s.fb }) := rfl

theorem exec_drawString (x y : Int) (on : Bool) (s : State) :
    exec (.drawString x y on) s = .next (drawText s.text (s.startString x y on)) := rfl

/-! ## Runs -/

/-- A run of one step more: the step is made, and the rest is run. -/
theorem run_succ_of_next (M : Host.Core) {s t : M.State} (h : M.step s = .next t) (n : Nat) :
    M.run (n + 1) s = M.run n t := by
  rw [Host.Core.run, h]

/-- The same for the machine of this package. -/
theorem core_run_succ {s t : State} (h : step s = .next t) (n : Nat) : core.run (n + 1) s = core.run n t :=
  run_succ_of_next core h n

end Sys2Proof.Machine
end

