-- ==== Sys2Proof/Laws/Inner.lean ====
section
/-! SUPPORT. The sequencer's own moves (`State.innerStep`): the equation of each position, and what no such move touches. -/

namespace Sys2Proof.Machine

theorem State.innerStep_settle {s : State} (h : s.seq = .settle) : s.innerStep = s.enterInit 0 := by
  simp only [State.innerStep, h]

theorem State.innerStep_clearing {s : State} {ci : Fin 1024} (h : s.seq = .clearing ci) :
    s.innerStep = s.clearNext ci := by
  simp only [State.innerStep, h]

theorem State.innerStep_pixel {s : State} (h : s.seq = .pixel) :
    s.innerStep = (s.setPixel s.latches.ox s.latches.oy s.latches.oon).complete .ok := by
  simp only [State.innerStep, h]

theorem State.innerStep_glyph {s : State} {gi : Fin 5} {gj : Fin 8} (h : s.seq = .glyph gi gj) :
    s.innerStep = (s.glyphPixel gi gj).glyphNext gi gj := by
  simp only [State.innerStep, h]

theorem State.innerStep_nextChar {s : State} (h : s.seq = .nextChar) : s.innerStep = s.takeChar := by
  simp only [State.innerStep, h]

/-- The step of a position that is neither idle nor a bus transaction is the sequencer's own move. -/
theorem step_inner {s : State} (h1 : s.seq ≠ .idle) (h2 : ¬ s.seq.isBus) : step s = .next s.innerStep := by
  cases hq : s.seq with
  | idle => exact absurd hq h1
  | initStep is => rw [hq] at h2; exact absurd trivial h2
  | pageCmd pg k => rw [hq] at h2; exact absurd trivial h2
  | pageData pg => rw [hq] at h2; exact absurd trivial h2
  | settle | clearing _ | pixel | glyph _ _ | nextChar => simp only [step, State.fetch, hq]

/-! ## What each move leaves in `seq` -/

theorem State.clearNext_more {s : State} {ci : Fin 1024} (h : ci.val + 1 < 1024) :
    s.clearNext ci = { s with fb := s.fb.write s.cfg ci.val 0, seq := .clearing ⟨ci.val + 1, h⟩ } := dif_pos h

theorem State.clearNext_last {s : State} {ci : Fin 1024} (h : ¬ ci.val + 1 < 1024) :
    s.clearNext ci = State.complete .ok { s with fb := s.fb.write s.cfg ci.val 0 } := dif_neg h

theorem State.glyphNext_row {s : State} {gi : Fin 5} {gj : Fin 8} (h : gj.val + 1 < 8) :
    s.glyphNext gi gj = { s with seq := .glyph gi ⟨gj.val + 1, h⟩ } := dif_pos h

theorem State.glyphNext_column {s : State} {gi : Fin 5} {gj : Fin 8} (hj : ¬ gj.val + 1 < 8) (hi : gi.val + 1 < 5) :
    s.glyphNext gi gj = { s with seq := .glyph ⟨gi.val + 1, hi⟩ 0 } := by
  rw [State.glyphNext, dif_neg hj, dif_pos hi]

theorem State.glyphNext_done {s : State} {gi : Fin 5} {gj : Fin 8} (hj : ¬ gj.val + 1 < 8) (hi : ¬ gi.val + 1 < 5) :
    s.glyphNext gi gj = s.glyphDone := by
  rw [State.glyphNext, dif_neg hj, dif_neg hi]

/-! ## What no such move touches: the configuration, the command port and the bus -/

/-- The fields the sequencer's own moves never touch. -/
def SameBus (s t : State) : Prop :=
  t.cfg = s.cfg ∧ t.cmds = s.cmds ∧ t.answers = s.answers ∧ t.trace = s.trace ∧ t.controller = s.controller

theorem SameBus.refl (s : State) : SameBus s s := ⟨rfl, rfl, rfl, rfl, rfl⟩

theorem SameBus.trans {s t u : State} (h : SameBus s t) (h' : SameBus t u) : SameBus s u :=
  ⟨h'.1.trans h.1, h'.2.1.trans h.2.1, h'.2.2.1.trans h.2.2.1, h'.2.2.2.1.trans h.2.2.2.1, h'.2.2.2.2.trans h.2.2.2.2⟩

theorem SameBus.complete (s : State) (r : Completion) : SameBus s (s.complete r) := ⟨rfl, rfl, rfl, rfl, rfl⟩

theorem SameBus.enterInit (s : State) (is : Nat) : SameBus s (s.enterInit is) := by
  unfold State.enterInit; split <;> exact ⟨rfl, rfl, rfl, rfl, rfl⟩

theorem SameBus.clearNext (s : State) (ci : Fin 1024) : SameBus s (s.clearNext ci) := by
  by_cases h : ci.val + 1 < 1024
  · rw [State.clearNext_more h]; exact ⟨rfl, rfl, rfl, rfl, rfl⟩
  · rw [State.clearNext_last h]; exact ⟨rfl, rfl, rfl, rfl, rfl⟩

theorem SameBus.glyphDone (s : State) : SameBus s s.glyphDone := by
  unfold State.glyphDone; split <;> exact ⟨rfl, rfl, rfl, rfl, rfl⟩

theorem SameBus.glyphNext (s : State) (gi : Fin 5) (gj : Fin 8) : SameBus s (s.glyphNext gi gj) := by
  by_cases hj : gj.val + 1 < 8
  · rw [State.glyphNext_row hj]; exact ⟨rfl, rfl, rfl, rfl, rfl⟩
  · by_cases hi : gi.val + 1 < 5
    · rw [State.glyphNext_column hj hi]; exact ⟨rfl, rfl, rfl, rfl, rfl⟩
    · rw [State.glyphNext_done hj hi]; exact SameBus.glyphDone s

theorem SameBus.takeChar (s : State) : SameBus s s.takeChar := by
  unfold State.takeChar
  split
  · exact SameBus.refl s
  · dsimp only
    split
    · exact ⟨rfl, rfl, rfl, rfl, rfl⟩
    · split <;> exact ⟨rfl, rfl, rfl, rfl, rfl⟩

theorem SameBus.innerStep (s : State) : SameBus s s.innerStep := by
  cases hq : s.seq with
  | settle => rw [State.innerStep_settle hq]; exact SameBus.enterInit s 0
  | clearing ci => rw [State.innerStep_clearing hq]; exact SameBus.clearNext s ci
  | pixel => rw [State.innerStep_pixel hq]; exact ⟨rfl, rfl, rfl, rfl, rfl⟩
  | glyph gi gj => rw [State.innerStep_glyph hq]; exact SameBus.trans ⟨rfl, rfl, rfl, rfl, rfl⟩ (SameBus.glyphNext _ gi gj)
  | nextChar => rw [State.innerStep_nextChar hq]; exact SameBus.takeChar s
  | idle | initStep _ | pageCmd _ _ | pageData _ => simp only [State.innerStep, hq]; exact SameBus.refl s

/-! ## DRAW_STRING's loop -/

theorem drawText_nil (s : State) : drawText [] s = { s with text := [], seq := .nextChar } := rfl

theorem drawText_terminator (rest : List Byte) (s : State) :
    drawText (0 :: rest) s = State.complete .ok { s with text := rest } := rfl

theorem drawText_cons {b : Byte} (hb : b ≠ 0) (rest : List Byte) (s : State) :
    drawText (b :: rest) s = drawText rest (s.drawNext b) := if_neg hb

/-- DRAW_STRING's loop over characters before a further stretch of text: each is drawn in turn. -/
theorem drawText_append (t rest : List Byte) (ht : ∀ b ∈ t, b ≠ 0) (s : State) :
    drawText (t ++ rest) s = drawText rest (t.foldl (fun s b => s.drawNext b) s) := by
  induction t generalizing s with
  | nil => rfl
  | cons b t ih =>
    rw [List.cons_append, drawText_cons (ht b List.mem_cons_self), ih fun c hc => ht c (List.mem_cons_of_mem _ hc)]
    rfl

/-- Drawing a stretch of text draws character `k` at `(x + 6k, y)` (R88), and touches only the framebuffer and the
working registers. -/
theorem foldl_drawNext (c : Cfg) (x y : Int) (on : Bool) (t : List Byte) (k : Nat) (s : State) (hcfg : s.cfg = c)
    (hcur : s.latches.cur = x + (6 * k : Nat)) (hy : s.latches.oy = y) (hon : s.latches.oon = on) :
    { (t.foldl (fun s b => s.drawNext b) s) with latches := s.latches } =
      { s with fb := (t.zipIdx k).foldl (fun m p => drawChar c (x + (6 * p.2 : Nat)) y p.1 on m) s.fb } := by
  induction t generalizing s k with
  | nil => rfl
  | cons b t ih =>
    have h := ih (k + 1) (s.drawNext b) hcfg
      (by rw [State.drawNext_latches, Latches.pastChar_cur, hcur]; push_cast; omega)
      (by rw [State.drawNext_latches, Latches.pastChar_oy, hy]) (by rw [State.drawNext_latches, Latches.pastChar_oon, hon])
    have e := congrArg (fun v : State => { v with latches := s.latches }) h
    simp only [List.foldl_cons, List.zipIdx_cons]
    simp only at e
    rw [e]
    simp only [State.drawNext, hcfg, hcur, hy, hon]

/-- What DRAW_STRING's loop never touches. -/
theorem drawText_same (t : List Byte) (s : State) :
    (drawText t s).cfg = s.cfg ∧ (drawText t s).ctrl = s.ctrl ∧ (drawText t s).cmds = s.cmds ∧
      (drawText t s).answers = s.answers ∧ (drawText t s).trace = s.trace ∧ (drawText t s).controller = s.controller := by
  induction t generalizing s with
  | nil => exact ⟨rfl, rfl, rfl, rfl, rfl, rfl⟩
  | cons b t ih =>
    by_cases hb : b = 0
    · subst hb; exact ⟨rfl, rfl, rfl, rfl, rfl, rfl⟩
    · rw [drawText_cons hb]; exact ih _

/-- The text port's earlier contents do not matter to the loop. -/
theorem drawText_text (t bytes : List Byte) (s : State) : drawText t { s with text := bytes } = drawText t s := by
  induction t generalizing s with
  | nil => rfl
  | cons b t ih =>
    by_cases hb : b = 0
    · subst hb; rfl
    · rw [drawText_cons hb, drawText_cons hb]; exact ih (s.drawNext b)

end Sys2Proof.Machine
end

