-- ==== Sys2Proof/Laws/PerInstr.lean ====
section
/-! SUPPORT. A family of statements per instruction: the encoding of a well-formed instruction has the width that
spec/opcode_table.json gives its row. -/

namespace Sys2Proof.Laws.EncodedWidth

/-- The width of the instruction's row in spec/opcode_table.json. -/
def rowWidth : Instr → Nat
  | .init => 48
  | .clear => 48
  | .update => 48
  | .drawPixel _ _ _ => 48
  | .drawChar _ _ _ _ => 48
  | .drawString _ _ _ => 48
  | .reservedOp6 => 48
  | .reservedOp7 => 48
  | .reservedRsv7 => 48
  | .reservedRsv6 => 48
  | .reservedRsv5 => 48
  | .reservedRsv4 => 48
  | .busCmd _ => 16
  | .busData _ => 1032
  | .ctlPageSelect _ => 8
  | .ctlColLow => 8
  | .ctlColHigh => 8
  | .initSeq00 => 8
  | .initSeq01 => 8
  | .initSeq02 => 8
  | .initSeq03 => 8
  | .initSeq04 => 8
  | .initSeq05 => 8
  | .initSeq06 => 8
  | .initSeq07 => 8
  | .initSeq08 => 8
  | .initSeq09 => 8
  | .initSeq10 => 8
  | .initSeq11 => 8
  | .initSeq12 => 8
  | .initSeq13 => 8
  | .initSeq14 => 8
  | .initSeq15 => 8
  | .initSeq16 => 8
  | .initSeq17 => 8
  | .initSeq18 => 8
  | .initSeq19 => 8
  | .initSeq20 => 8
  | .initSeq21 => 8
  | .initSeq22 => 8
  | .initSeq23 => 8
  | .initSeq24 => 8
  | .initSeq25 => 8
  | .initSeq26 => 8

/-- A well-formed instruction is encoded in its row's width. -/
def Statement (i : Instr) : Prop := WellFormed i → (encode i).bits = rowWidth i

theorem init : Statement .init := fun _ => rfl
theorem clear : Statement .clear := fun _ => rfl
theorem update : Statement .update := fun _ => rfl
theorem drawPixel (x y : Int) (on : Bool) : Statement (.drawPixel x y on) := fun _ => rfl
theorem drawChar (x y : Int) (c : Byte) (on : Bool) : Statement (.drawChar x y c on) := fun _ => rfl
theorem drawString (x y : Int) (on : Bool) : Statement (.drawString x y on) := fun _ => rfl
theorem reservedOp6 : Statement .reservedOp6 := fun _ => rfl
theorem reservedOp7 : Statement .reservedOp7 := fun _ => rfl
theorem reservedRsv7 : Statement .reservedRsv7 := fun _ => rfl
theorem reservedRsv6 : Statement .reservedRsv6 := fun _ => rfl
theorem reservedRsv5 : Statement .reservedRsv5 := fun _ => rfl
theorem reservedRsv4 : Statement .reservedRsv4 := fun _ => rfl
theorem busCmd (b : Byte) : Statement (.busCmd b) := fun _ => rfl
theorem busData (d : List Byte) : Statement (.busData d) := by
  intro h
  have hd : d.length = 128 := by simpa only [WellFormed, Instr.wellFormed, beq_iff_eq] using h
  simp only [encode, Code.bits, rowWidth, List.length_cons, hd]
theorem ctlPageSelect (pg : Fin 8) : Statement (.ctlPageSelect pg) := fun _ => rfl
theorem ctlColLow : Statement .ctlColLow := fun _ => rfl
theorem ctlColHigh : Statement .ctlColHigh := fun _ => rfl
theorem initSeq00 : Statement .initSeq00 := fun _ => rfl
theorem initSeq01 : Statement .initSeq01 := fun _ => rfl
theorem initSeq02 : Statement .initSeq02 := fun _ => rfl
theorem initSeq03 : Statement .initSeq03 := fun _ => rfl
theorem initSeq04 : Statement .initSeq04 := fun _ => rfl
theorem initSeq05 : Statement .initSeq05 := fun _ => rfl
theorem initSeq06 : Statement .initSeq06 := fun _ => rfl
theorem initSeq07 : Statement .initSeq07 := fun _ => rfl
theorem initSeq08 : Statement .initSeq08 := fun _ => rfl
theorem initSeq09 : Statement .initSeq09 := fun _ => rfl
theorem initSeq10 : Statement .initSeq10 := fun _ => rfl
theorem initSeq11 : Statement .initSeq11 := fun _ => rfl
theorem initSeq12 : Statement .initSeq12 := fun _ => rfl
theorem initSeq13 : Statement .initSeq13 := fun _ => rfl
theorem initSeq14 : Statement .initSeq14 := fun _ => rfl
theorem initSeq15 : Statement .initSeq15 := fun _ => rfl
theorem initSeq16 : Statement .initSeq16 := fun _ => rfl
theorem initSeq17 : Statement .initSeq17 := fun _ => rfl
theorem initSeq18 : Statement .initSeq18 := fun _ => rfl
theorem initSeq19 : Statement .initSeq19 := fun _ => rfl
theorem initSeq20 : Statement .initSeq20 := fun _ => rfl
theorem initSeq21 : Statement .initSeq21 := fun _ => rfl
theorem initSeq22 : Statement .initSeq22 := fun _ => rfl
theorem initSeq23 : Statement .initSeq23 := fun _ => rfl
theorem initSeq24 : Statement .initSeq24 := fun _ => rfl
theorem initSeq25 : Statement .initSeq25 := fun _ => rfl
theorem initSeq26 : Statement .initSeq26 := fun _ => rfl

end Sys2Proof.Laws.EncodedWidth
end

