-- ==== Sys2Proof/Laws/Sequences.lean ====
section
/-! SUPPORT. The laws of INIT's and UPDATE's sequences: how INIT starts, INIT over a stretch of acknowledged transactions, and
one acknowledged transaction of UPDATE by its number 0 to 31. -/

namespace Sys2Proof.Machine

theorem State.slice_length (s : State) (pg : Nat) : (s.slice pg).length = 128 := by
  rw [State.slice, Memory.slice, List.length_map, List.length_range]

theorem acks_succ (n : Nat) : acks (n + 1) = .ack :: acks n := rfl

/-! ## INIT -/

theorem State.startInit_more {s u : State} (hu : s.loadOp .init = u) (h : 0 < s.cfg.initSeq.length) :
    s.startInit = { u with seq := .initStep 0, controller := { s.controller.forget with taken := [] } } := by
  subst hu; exact if_pos h

theorem State.startInit_done {s : State} (h : s.cfg.initSeq.length = 0) :
    s.startInit =
      State.complete .ok { s with ctrl := .ready, controller := { s.controller.forget with taken := [] } } :=
  State.enterInit_done
    (s := { s.loadOp .init with seq := .settle, controller := { s.controller.forget with taken := [] } }) (is := 0)
    (show s.cfg.initSeq.length ≤ 0 by omega)

/-- INIT at entry `i`, when the next `n` transactions are acknowledged and are not the last: it sends entries `i` to
`i + n − 1` and stands at entry `i + n`, the controller having taken them. -/
theorem runBus_init_acks (n : Nat) :
    ∀ (m i : Nat) (rest : List BusAnswer) (s : State), s.seq = .initStep i → i + n < s.cfg.initSeq.length →
      s.answers = acks n ++ rest → s.controller.taken = s.cfg.initSeq.take i → s.controller.unsaid →
      ∃ k : Controller, k.taken = s.cfg.initSeq.take (i + n) ∧ k.unsaid ∧
        runBus (n + m) s =
          runBus m
            { s with
              answers := rest, trace := s.trace ++ ackedEvents (((initPayloads s.cfg).drop i).take n)
              seq := .initStep (i + n), controller := k } := by
  induction n with
  | zero =>
    intro m i rest s hq hl ha hc hu
    simp only [acks, List.replicate_zero, List.nil_append] at ha
    refine ⟨s.controller, hc, hu, ?_⟩
    simp only [Nat.zero_add, List.take_zero, ackedEvents, List.map_nil, List.append_nil, Nat.add_zero, ← hq, ← ha]
  | succ n ih =>
    intro m i rest s hq hl ha hc hu
    have hi : i < s.cfg.initSeq.length := by omega
    have hb := List.getElem?_eq_getElem hi
    rw [show n + 1 + m = (n + m) + 1 by omega, runBus, State.busStep_initStep hq hb,
      State.sendCommand_ack (rest := acks n ++ rest) _ _ (by rw [ha, acks_succ]; rfl)]
    simp only [State.afterCommand, hq]
    rw [State.enterInit_more (by show i + 1 < s.cfg.initSeq.length; omega)]
    obtain ⟨k, hk, hku, h⟩ := ih m (i + 1) rest
      { s with
        answers := acks n ++ rest, trace := s.trace ++ [⟨Config.devAddr, cmdPayload s.cfg.initSeq[i], .ack⟩]
        controller := s.controller.takeCommand s.panelSaid (some (.initEntry i)) s.cfg.initSeq[i]
        seq := .initStep (i + 1) }
      rfl (by show i + 1 + n < s.cfg.initSeq.length; omega) rfl
      (by rw [List.take_add_one, hb, ← hc]; cases s.panelSaid <;> rfl)
      (by cases s.panelSaid <;> exact Controller.unsaid_forget s.controller)
    have hd : (initPayloads s.cfg).drop i = cmdPayload s.cfg.initSeq[i] :: (initPayloads s.cfg).drop (i + 1) := by
      simp only [initPayloads, ← List.map_drop]
      rw [List.drop_eq_getElem_cons hi]; rfl
    rw [show i + 1 + n = i + (n + 1) by omega] at hk h
    refine ⟨k, hk, hku, h.trans ?_⟩
    rw [hd, List.take_succ_cons]
    simp only [ackedEvents, List.map_cons, List.append_assoc, List.cons_append, List.nil_append]

/-! ## UPDATE, by transaction number (R105, R124: transaction `4p + k`) -/

/-- The sequencer's position of transaction `n`. -/
def updatePos (n : Nat) : Seq :=
  match n % 4 with
  | 0 => .pageCmd (Fin.ofNat 8 (n / 4)) .select
  | 1 => .pageCmd (Fin.ofNat 8 (n / 4)) .colLow
  | 2 => .pageCmd (Fin.ofNat 8 (n / 4)) .colHigh
  | _ => .pageData (Fin.ofNat 8 (n / 4))

/-- The payload of transaction `n`. -/
def State.updatePayload (s : State) (n : Nat) : List Byte :=
  match n % 4 with
  | 0 => cmdPayload (s.cfg.pageBase + BitVec.ofNat 8 (n / 4))
  | 1 => cmdPayload s.cfg.colLow
  | 2 => cmdPayload s.cfg.colHigh
  | _ => dataPayload (s.slice (n / 4))

theorem State.updatePayloads_eq (s : State) : s.updatePayloads = (List.range 32).map s.updatePayload := rfl

theorem State.updatePayloads_get (s : State) {n : Nat} (h : n < 32) : s.updatePayloads[n]? = some (s.updatePayload n) := by
  rw [State.updatePayloads_eq]; simp only [List.getElem?_map, List.getElem?_range h, Option.map_some]

theorem State.updatePayloads_take_succ (s : State) {n : Nat} (h : n < 32) :
    s.updatePayloads.take (n + 1) = s.updatePayloads.take n ++ [s.updatePayload n] := by
  rw [List.take_add_one, State.updatePayloads_get s h]; rfl

/-- The transaction of position `n` is the `n`-th of UPDATE: acknowledged, and not the last, it is recorded and the sequencer
goes to position `n + 1`. -/
theorem busStep_update_ack (s : State) {n : Nat} (hn : n < 31) (rest : List BusAnswer) (l : Latches) (k : Controller)
    (T : List BusEvent) :
    ∃ (l' : Latches) (k' : Controller),
      State.busStep { s with answers := .ack :: rest, trace := T, seq := updatePos n, latches := l, controller := k } =
        { s with
          answers := rest, trace := T ++ ackedEvents [s.updatePayload n], seq := updatePos (n + 1), latches := l'
          controller := k' } := by
  obtain ⟨q, r, hr, rfl⟩ : ∃ q r, r < 4 ∧ n = 4 * q + r := ⟨n / 4, n % 4, by omega, by omega⟩
  have hq : q < 8 := by omega
  have hfin : Fin.ofNat 8 q = ⟨q, hq⟩ := Fin.ext (Nat.mod_eq_of_lt hq)
  have h4 : (4 * q + r) / 4 = q := by omega
  have hm : (4 * q + r) % 4 = r := by omega
  obtain rfl | rfl | rfl | rfl : r = 0 ∨ r = 1 ∨ r = 2 ∨ r = 3 := by omega
  · simp only [updatePos, State.updatePayload, h4, hm, show (4 * q + 0 + 1) / 4 = q by omega,
      show (4 * q + 0 + 1) % 4 = 1 by omega, hfin]
    rw [State.busStep_pageCmd rfl, State.sendCommand_ack _ _ rfl]
    exact ⟨_, _, rfl⟩
  · simp only [updatePos, State.updatePayload, h4, hm, show (4 * q + 1 + 1) / 4 = q by omega,
      show (4 * q + 1 + 1) % 4 = 2 by omega, hfin]
    rw [State.busStep_pageCmd rfl, State.sendCommand_ack _ _ rfl]
    exact ⟨_, _, rfl⟩
  · simp only [updatePos, State.updatePayload, h4, hm, show (4 * q + 2 + 1) / 4 = q by omega,
      show (4 * q + 2 + 1) % 4 = 3 by omega, hfin]
    rw [State.busStep_pageCmd rfl, State.sendCommand_ack _ _ rfl]
    exact ⟨_, _, rfl⟩
  · have hq' : q + 1 < 8 := by omega
    have hfin' : Fin.ofNat 8 (q + 1) = ⟨q + 1, hq'⟩ := Fin.ext (Nat.mod_eq_of_lt hq')
    simp only [updatePos, State.updatePayload, h4, hm, show (4 * q + 3 + 1) / 4 = q + 1 by omega,
      show (4 * q + 3 + 1) % 4 = 0 by omega, hfin, hfin']
    rw [State.busStep_pageData rfl, State.sendSlice_ack _ rfl]
    simp only [State.afterData]
    rw [State.enterPageAfter_more (by exact hq')]
    exact ⟨_, _, rfl⟩

end Sys2Proof.Machine
end

