-- ==== Sys2Proof/Tests/Slice0.lean ====
section
/-! SUPPORT. The model's own tests: the checks of WellFormed, decoding of words written out from the spec's encodings, one step
of each instruction on a small state, and a witness for the hypotheses of every statement.

Expected values come from `95_test_vectors.md`, `opcode_table.json` and the rules named in each test, never from the model. -/

namespace Sys2Proof.Tests

open Sys2Proof Sys2Proof.Machine

/-! ## A small state: the glyph fixture `FIX` of `95_test_vectors.md` section 2 and an all-zero framebuffer -/

/-- Column `i` of code point `c` in `FIX`; other code points are used by no test. -/
def fixByte (c i : Nat) : Byte :=
  match c with
  | 33 => [0x00, 0x00, 0x5F, 0x00, 0x00].getD i 0
  | 65 => [0x7C, 0x12, 0x11, 0x12, 0x7C].getD i 0
  | 66 => [0x7F, 0x49, 0x49, 0x49, 0x36].getD i 0
  | 126 => [0x81, 0x42, 0x24, 0x18, 0xFF].getD i 0
  | _ => 0

/-- The default parameters with `FIX` and every byte of `FB_RESET` equal to `v`. -/
def fixCfg (v : Byte) : Cfg where
  coordW    := 16
  cwW       := 48
  glyph     := ⟨((List.range 475).map fun k => fixByte (32 + k / 5) (k % 5)).toArray, by simp⟩
  initSeq   := Config.initSeqDefault
  pageBase  := 0xB0
  colLow    := 0x00
  colHigh   := 0x10
  tSettle   := 0
  fbReset   := Vector.replicate 1024 v
  faultInfo := .infinite

/-- An idle block with every framebuffer byte 0. -/
def blank : State := State.resetWith (fixCfg 0)
/-- An idle block with every framebuffer byte `0xFF`. -/
def filled : State := State.resetWith (fixCfg 0xFF)
/-- The blank block standing at `q`, in `Ready`, with these answers of the transport to come. -/
def standing (q : Seq) (answers : List BusAnswer) : State :=
  { blank with seq := q, answers := answers, ctrl := .ready }
/-- The blank block with one command word presented, and these bytes at the text port. -/
def presenting (w : CmdWord) (text : List Byte) : State := { blank with cmds := [⟨w, text⟩] }

/-- What `f` sees of the next state. -/
def seen {α : Type} (o : Host.Outcome State Fault Refusal) (f : State → α) : Option α :=
  match o with
  | .next t => some (f t)
  | .fault _ => none
  | .refused _ => none

/-- The `n` framebuffer bytes from address `a` on. -/
def bytesAt (a n : Nat) (s : State) : List Byte := (List.range n).map fun k => s.fbByte (a + k)

/-! ## The constants of R7, by their formulas there -/

theorem test_constants :
    Config.nPixels = Config.width * Config.height ∧ Config.pages = Config.height / 8 ∧
    Config.fbBytes = Config.width * Config.height / 8 ∧ Config.nGlyphs = Config.glyphLast - Config.glyphFirst + 1 ∧
    Config.romBytes = Config.nGlyphs * Config.glyphCols ∧ Config.charAdvance = Config.glyphCols + 1 := by decide

/-! ## WellFormed: an ill-formed term for each check -/

theorem test_wellFormed_refuses_x : ¬ WellFormed (.drawPixel 32768 0 true) ∧ ¬ WellFormed (.drawPixel (-32769) 0 true) := by
  decide
theorem test_wellFormed_refuses_y : ¬ WellFormed (.drawPixel 0 32768 true) ∧ ¬ WellFormed (.drawPixel 0 (-32769) true) := by
  decide
theorem test_wellFormed_refuses_char : ¬ WellFormed (.drawChar 32768 0 65 true) ∧ ¬ WellFormed (.drawChar 0 (-32769) 65 true) := by
  decide
theorem test_wellFormed_refuses_string : ¬ WellFormed (.drawString (-32769) 0 true) ∧ ¬ WellFormed (.drawString 0 32768 true) := by
  decide
theorem test_wellFormed_refuses_data :
    ¬ WellFormed (.busData (List.replicate 127 0)) ∧ ¬ WellFormed (.busData (List.replicate 129 0)) := by
  decide +kernel
theorem test_wellFormed_accepts :
    WellFormed (.drawPixel (-32768) 32767 true) ∧ WellFormed (.busData (List.replicate 128 0)) ∧ WellFormed .initSeq26 := by
  decide +kernel

/-! ## Decoding: the words of `95_test_vectors.md` 3.1 and of `opcode_table.json` -/

/-- The command words of 3.1 that are legal. -/
theorem test_decode_commands :
    decodeCmd 0x000000000000 = .init ∧ decodeCmd 0x000000000001 = .clear ∧ decodeCmd 0x000000000002 = .update ∧
    decodeCmd 0x000A0005000B = .drawPixel 5 10 true ∧ decodeCmd 0x000A00050003 = .drawPixel 5 10 false ∧
    decodeCmd 0x0000FFFF000B = .drawPixel (-1) 0 true ∧ decodeCmd 0xFFFF0000000B = .drawPixel 0 (-1) true ∧
    decodeCmd 0x80008000000B = .drawPixel (-32768) (-32768) true ∧ decodeCmd 0x7FFF7FFF000B = .drawPixel 32767 32767 true ∧
    decodeCmd 0x00000000410C = .drawChar 0 0 0x41 true ∧ decodeCmd 0x000000004104 = .drawChar 0 0 0x41 false ∧
    decodeCmd 0x003C007D410C = .drawChar 125 60 0x41 true ∧ decodeCmd 0xFFFDFFFE410C = .drawChar (-2) (-3) 0x41 true ∧
    decodeCmd 0x00000000000D = .drawString 0 0 true ∧ decodeCmd 0x001C006E000D = .drawString 110 28 true ∧
    decodeCmd 0xFFFFFFFFFF09 = .clear ∧ decodeCmd 0x12345678AB0A = .update := by decide

/-- The illegal words of 3.1, and one word for each reserved row of the table. -/
theorem test_decode_illegal :
    decodeCmd 0x000000000006 = .reservedOp6 ∧ decodeCmd 0x000000000007 = .reservedOp7 ∧
    decodeCmd 0x000000000010 = .reservedRsv4 ∧ decodeCmd 0x000000000020 = .reservedRsv5 ∧
    decodeCmd 0x000000000040 = .reservedRsv6 ∧ decodeCmd 0x00000000008B = .reservedRsv7 ∧
    decodeCmd 0x0000000000F3 = .reservedRsv7 ∧ decodeCmd 0x000000000036 = .reservedRsv5 := by decide

/-- The two bus formats (R58), and payloads that are neither. -/
theorem test_decode_bus :
    decodeBus [0x00, 0xAE] = .ok (.busCmd 0xAE) ∧
    decodeBus (0x40 :: List.replicate 128 0x5A) = .ok (.busData (List.replicate 128 0x5A)) ∧
    decodeBus [] = .error .emptyPayload ∧ decodeBus [0x80, 0xAE] = .error .unknownControlByte ∧
    decodeBus [0x00] = .error .wrongLength ∧ decodeBus [0x00, 0x81, 0xCF] = .error .wrongLength ∧
    decodeBus (0x40 :: List.replicate 127 0) = .error .wrongLength := by decide +kernel

/-- The bytes of R59 at their positions. -/
theorem test_decode_page_bytes :
    decodeCtl (.pageSelect 0) 0xB0 = .ok (.ctlPageSelect 0) ∧ decodeCtl (.pageSelect 5) 0xB5 = .ok (.ctlPageSelect 5) ∧
    decodeCtl .colLow 0x00 = .ok .ctlColLow ∧ decodeCtl .colHigh 0x10 = .ok .ctlColHigh ∧
    decodeCtl (.pageSelect 5) 0xB4 = .error .notTheRowsByte ∧ decodeCtl .colHigh 0x00 = .error .notTheRowsByte := by decide

/-- The 27 rows of R101, entry by entry. -/
theorem test_decode_init_rows :
    decodeCtl (.initEntry 0) 0xAE = .ok .initSeq00 ∧ decodeCtl (.initEntry 1) 0x20 = .ok .initSeq01 ∧
    decodeCtl (.initEntry 2) 0x02 = .ok .initSeq02 ∧ decodeCtl (.initEntry 3) 0xB0 = .ok .initSeq03 ∧
    decodeCtl (.initEntry 4) 0x00 = .ok .initSeq04 ∧ decodeCtl (.initEntry 5) 0x10 = .ok .initSeq05 ∧
    decodeCtl (.initEntry 6) 0xC8 = .ok .initSeq06 ∧ decodeCtl (.initEntry 7) 0xA1 = .ok .initSeq07 ∧
    decodeCtl (.initEntry 8) 0x81 = .ok .initSeq08 ∧ decodeCtl (.initEntry 9) 0xCF = .ok .initSeq09 ∧
    decodeCtl (.initEntry 10) 0xA6 = .ok .initSeq10 ∧ decodeCtl (.initEntry 11) 0xA8 = .ok .initSeq11 ∧
    decodeCtl (.initEntry 12) 0x3F = .ok .initSeq12 ∧ decodeCtl (.initEntry 13) 0xA4 = .ok .initSeq13 ∧
    decodeCtl (.initEntry 14) 0xD3 = .ok .initSeq14 ∧ decodeCtl (.initEntry 15) 0x00 = .ok .initSeq15 ∧
    decodeCtl (.initEntry 16) 0xD5 = .ok .initSeq16 ∧ decodeCtl (.initEntry 17) 0x80 = .ok .initSeq17 ∧
    decodeCtl (.initEntry 18) 0xD9 = .ok .initSeq18 ∧ decodeCtl (.initEntry 19) 0xF1 = .ok .initSeq19 ∧
    decodeCtl (.initEntry 20) 0xDA = .ok .initSeq20 ∧ decodeCtl (.initEntry 21) 0x12 = .ok .initSeq21 ∧
    decodeCtl (.initEntry 22) 0xDB = .ok .initSeq22 ∧ decodeCtl (.initEntry 23) 0x40 = .ok .initSeq23 ∧
    decodeCtl (.initEntry 24) 0x8D = .ok .initSeq24 ∧ decodeCtl (.initEntry 25) 0x14 = .ok .initSeq25 ∧
    decodeCtl (.initEntry 26) 0xAF = .ok .initSeq26 ∧ decodeCtl (.initEntry 27) 0x00 = .error .noSuchRow := by
  decide

/-- A byte that is not its row's is refused by name. -/
theorem test_decode_init_other_byte : decodeCtl (.initEntry 9) 0x7F = .error .notTheRowsByte := by decide

/-- Encoding by hand: the canonical words of 3.1 (R51, R54). -/
theorem test_encode :
    encode (.drawPixel 5 10 true) = .cmd 0x000A0005000B ∧ encode (.drawChar (-2) (-3) 0x41 true) = .cmd 0xFFFDFFFE410C ∧
    encode (.drawString 110 28 true) = .cmd 0x001C006E000D ∧ encode (.busCmd 0x81) = .bus [0x00, 0x81] ∧
    encode (.ctlPageSelect 7) = .ctl (.pageSelect 7) 0xB7 := by decide

/-- The table's numbering: bit 0 is the least significant bit of the first byte. -/
theorem test_decodeTableWord :
    decodeTableWord 48 0x000A0005000B = some (.drawPixel 5 10 true) ∧ decodeTableWord 16 0xAE00 = some (.busCmd 0xAE) ∧
    decodeTableWord 8 0xB3 = some (.ctlPageSelect 3) ∧ decodeTableWord 8 0xAF = some .initSeq26 ∧
    decodeTableWord 8 0x77 = none := by decide

/-- The data transaction's word: `0x40`, then byte `0x01`, then zeros. -/
theorem test_decodeTableWord_data :
    decodeTableWord 1032 0x0140 = some (.busData (0x01 :: List.replicate 127 0)) := by decide +kernel

/-! ## One step of each instruction -/

/-- 3.2: CLEAR from an all-`FF` framebuffer (through the law of its loop: 1024 writes are too many to evaluate). -/
theorem test_clear :
    seen (exec .clear filled) (fun t => (bytesAt 0 2 t, t.fbByte 1023, t.completions, t.trace)) =
      some ([0x00, 0x00], 0x00, [.ok], []) := by
  simp only [exec_clear, seen, bytesAt, List.range, List.range.loop, List.map_cons, List.map_nil, State.fbByte,
    State.complete_fb, State.complete_cfg, State.complete_completions, State.complete_trace,
    clearFb_read _ _ (show 0 + 0 < 1024 by decide), clearFb_read _ _ (show 0 + 1 < 1024 by decide),
    clearFb_read _ _ (show 1023 < 1024 by decide)]
  rfl

/-- R71, R14: the last move of CLEAR writes `FB[1023]` and completes. -/
theorem test_clear_last_move :
    seen (step { filled with seq := .clearing 1023 }) (fun t => (t.fbByte 1022, t.fbByte 1023, t.seq, t.completions)) =
      some (0xFF, 0x00, .idle, [.ok]) := by decide +kernel

/-- 3.2: `FB[133]` from `00` and from `FF`. -/
theorem test_drawPixel :
    seen (exec (.drawPixel 5 10 true) blank) (·.fbByte 133) = some 0x04 ∧
    seen (exec (.drawPixel 5 10 false) filled) (·.fbByte 133) = some 0xFB ∧
    seen (exec (.drawPixel 127 63 true) blank) (·.fbByte 1023) = some 0x80 := by decide +kernel

/-- 3.2: the bounds, each a no-op that completes `OK`. -/
theorem test_drawPixel_off_screen :
    seen (exec (.drawPixel 128 0 true) blank) (fun t => (t.fb, t.completions)) = some ([], [.ok]) ∧
    seen (exec (.drawPixel 0 64 true) blank) (fun t => (t.fb, t.completions)) = some ([], [.ok]) ∧
    seen (exec (.drawPixel (-1) 0 true) blank) (fun t => (t.fb, t.completions)) = some ([], [.ok]) ∧
    seen (exec (.drawPixel 0 (-1) true) blank) (fun t => (t.fb, t.completions)) = some ([], [.ok]) := by decide +kernel

/-- 3.3: a cell across two pages, seen against `FF`; the inverse of a glyph with bit 7. -/
theorem test_drawChar :
    seen (exec (.drawChar 10 4 65 true) filled) (fun t => (bytesAt 10 5 t, bytesAt 138 5 t)) =
      some ([0xCF, 0x2F, 0x1F, 0x2F, 0xCF], [0xF7, 0xF1, 0xF1, 0xF1, 0xF7]) ∧
    seen (exec (.drawChar 0 0 126 false) blank) (bytesAt 0 6) = some [0x7E, 0xBD, 0xDB, 0xE7, 0x00, 0x00] := by decide +kernel

/-- 3.3: clipped right and bottom, left and top; a code without a glyph. -/
theorem test_drawChar_clipped :
    seen (exec (.drawChar 125 60 65 true) blank) (bytesAt 1020 4) = some [0x00, 0xC0, 0x20, 0x10] ∧
    seen (exec (.drawChar (-2) (-3) 65 true) blank) (bytesAt 0 4) = some [0x02, 0x02, 0x0F, 0x00] ∧
    seen (exec (.drawChar 0 0 127 true) blank) (fun t => (t.fb, t.completions)) = some ([], [.ok]) := by decide +kernel

/-- 3.4: `"A\x07B"`: the unsupported byte advances; bytes after the terminator are not taken. -/
theorem test_drawString :
    seen (exec (.drawString 0 0 true) { blank with text := [0x41, 0x07, 0x42, 0x00, 0x42] })
        (fun t => (bytesAt 0 18 t, t.text, t.completions)) =
      some ([0x7C, 0x12, 0x11, 0x12, 0x7C, 0, 0, 0, 0, 0, 0, 0, 0x7F, 0x49, 0x49, 0x49, 0x36, 0], [0x42], [.ok]) := by
  decide +kernel

/-- 3.4: `DRAW_STRING 3, 16, 0, "A!"`, the spacing column untouched; a text without a terminator completes nothing. -/
theorem test_drawString_inverse :
    seen (exec (.drawString 3 16 false) { blank with text := [0x41, 0x21, 0x00] }) (bytesAt 259 11) =
      some [0x83, 0xED, 0xEE, 0xED, 0x83, 0x00, 0xFF, 0xFF, 0xA0, 0xFF, 0xFF] ∧
    seen (exec (.drawString 0 0 true) { blank with text := [0x41] }) (fun t => (t.seq, t.completions)) =
      some (.nextChar, []) := by decide +kernel

/-- 3.5: INIT acknowledged: 27 transactions, the sixth `3C:[00 10]`, the last `3C:[00 AF]`. -/
theorem test_init :
    seen (exec .init { blank with answers := acks 27 })
        (fun t => (t.trace.length, t.trace[5]?, t.trace[26]?, t.ctrl, t.completions)) =
      some (27, some ⟨0x3C, [0x00, 0x10], .ack⟩, some ⟨0x3C, [0x00, 0xAF], .ack⟩, .ready, [.ok]) := by decide +kernel

/-- 3.5: INIT with a fault at transaction 5: six transactions, `Uninitialized` whatever it was. -/
theorem test_init_fault :
    seen (exec .init { blank with ctrl := .ready, answers := acks 5 ++ [.fault 9, .ack] })
        (fun t => (t.trace.length, t.trace[5]?, t.ctrl, t.completions)) =
      some (6, some ⟨0x3C, [0x00, 0x10], .fault 9⟩, .uninitialized, [.busFault 9]) := by decide +kernel

/-- 3.5: UPDATE acknowledged: the commands of page 7, and the data of page 2 of program P4. -/
theorem test_update :
    seen (exec .update { blank with fb := [(256, 0x01)], answers := acks 32 })
        (fun t => (t.trace.length, [t.trace[28]?, t.trace[29]?, t.trace[30]?, t.trace[11]?], t.completions)) =
      some (32,
        [some ⟨0x3C, [0x00, 0xB7], .ack⟩, some ⟨0x3C, [0x00, 0x00], .ack⟩, some ⟨0x3C, [0x00, 0x10], .ack⟩,
          some ⟨0x3C, 0x40 :: 0x01 :: List.replicate 127 0x00, .ack⟩], [.ok]) := by decide +kernel

/-- A panel on which every pixel is lit. -/
def litPanel : Controller := ⟨[], ⟨0, 0, 0, Vector.replicate 8 (Vector.replicate 128 0xFF)⟩, 1⟩

/-- 3.5: UPDATE from `Ready` with a fault at transaction 11: pages 0 and 1 of the panel are the framebuffer's, page 3 is as
before. -/
theorem test_update_fault :
    seen (exec .update { blank with ctrl := .ready, answers := acks 11 ++ [BusAnswer.fault 7], controller := litPanel })
        (fun t => (t.trace.length, t.ctrl, t.completions, [t.controller.page 0, t.controller.page 1, t.controller.page 3])) =
      some (12, .ready, [.busFault 7], [List.replicate 128 0, List.replicate 128 0, List.replicate 128 0xFF]) := by
  decide +kernel

/-- R100, U13: with the default bytes something is said of the panel of a `Ready` block; with an `INIT_SEQ` of fewer than
sixteen entries nothing is. -/
theorem test_panelSaid :
    (standing .idle []).panelSaid = true ∧ blank.panelSaid = false ∧
    ({ standing .idle [] with cfg := { fixCfg 0 with initSeq := [] } } : State).panelSaid = false := by decide

/-- R13, R14, R104: `pg` and `col` while UPDATE stands at the data of page 3; `gi` and `gj` inside a glyph, and at their last
values once DRAW_STRING waits for the character after it. -/
theorem test_counters :
    seen (exec .update { blank with answers := acks 15 }) (fun t => (t.seq, t.counterPg, t.latches.col)) =
      some (.pageData 3, 3, 127) ∧
    (standing (.glyph 2 5) []).counterGi = 2 ∧ (standing (.glyph 2 5) []).counterGj = 5 ∧
    seen (exec (.drawString 0 0 true) { blank with text := [0x41] }) (fun t => (t.counterGi, t.counterGj, t.latches.cur)) =
      some (4, 7, 6) := by decide +kernel

/-- R122: each illegal row completes `ILLEGAL` and leaves the text at its port. -/
theorem test_reserved :
    [Instr.reservedOp6, .reservedOp7, .reservedRsv7, .reservedRsv6, .reservedRsv5, .reservedRsv4].map
        (fun i => seen (exec i { blank with text := [0x41] }) fun t => (t.completions, t.text, t.seq, t.trace)) =
      List.replicate 6 (some ([.illegal], [0x41], .idle, [])) := by decide

/-- R96, R14: an operand byte of INIT in its own transaction. -/
theorem test_busCmd :
    seen (exec (.busCmd 0xCF) (standing (.initStep 9) [.ack])) (fun t => (t.trace, t.seq)) =
      some ([⟨0x3C, [0x00, 0xCF], .ack⟩], .initStep 10) := by decide

/-- R97, R104: the data of page 7 ends UPDATE; that of page 6 does not. -/
theorem test_busData :
    seen (exec (.busData (List.replicate 128 1)) (standing (.pageData 7) [.ack])) (fun t => (t.trace, t.seq, t.completions)) =
      some ([⟨0x3C, 0x40 :: List.replicate 128 1, .ack⟩], .idle, [.ok]) ∧
    seen (exec (.busData (List.replicate 128 1)) (standing (.pageData 6) [.ack])) (fun t => (t.seq, t.completions)) =
      some (.pageCmd 7 .select, []) := by decide

/-- R104: the three commands of page 3, each at its position. -/
theorem test_page_commands :
    seen (exec (.ctlPageSelect 3) (standing (.pageCmd 3 .select) [.ack])) (fun t => (t.trace, t.seq)) =
      some ([⟨0x3C, [0x00, 0xB3], .ack⟩], .pageCmd 3 .colLow) ∧
    seen (exec .ctlColLow (standing (.pageCmd 3 .colLow) [.ack])) (fun t => (t.trace, t.seq)) =
      some ([⟨0x3C, [0x00, 0x00], .ack⟩], .pageCmd 3 .colHigh) ∧
    seen (exec .ctlColHigh (standing (.pageCmd 3 .colHigh) [.ack])) (fun t => (t.trace, t.seq)) =
      some ([⟨0x3C, [0x00, 0x10], .ack⟩], .pageData 3) := by decide

/-- R101: the trace of each INIT row, run at its own entry. -/
theorem test_init_rows :
    initSeqInstrs.zipIdx.map (fun p => seen (exec p.1 (standing (.initStep p.2) [.ack])) fun t => t.trace.map (·.payload)) =
      ([0xAE, 0x20, 0x02, 0xB0, 0x00, 0x10, 0xC8, 0xA1, 0x81, 0xCF, 0xA6, 0xA8, 0x3F, 0xA4, 0xD3, 0x00, 0xD5, 0x80, 0xD9, 0xF1,
        0xDA, 0x12, 0xDB, 0x40, 0x8D, 0x14, 0xAF] : List Byte).map (fun b => some [[0x00, b]]) := by decide

/-- R98, R101: the controller's register of a setting: contrast has its opcode and its operand. -/
theorem test_settings :
    ({ Controller.reset with taken := Config.initSeqDefault } : Controller).settingBytes .contrast = [0x81, 0xCF] ∧
    ({ Controller.reset with taken := Config.initSeqDefault } : Controller).settingBytes .displayOn = [0xAF] ∧
    initSeqSettings.length = 27 := by decide

/-! ## The host's two questions: the decoder's row and the first step after reset -/

theorem test_withFetchWord_cmd :
    seen (step (State.reset.withFetchWord 48 0x000000000007)) (·.completions) = some [.illegal] := by decide

theorem test_withFetchWord_row :
    (match (State.reset.withFetchWord 8 0xAF).fetch with | .run i _ => some i | _ => none) = some .initSeq26 := by
  decide +kernel

/-- The transaction a stalled block offers (R95, R150). -/
theorem test_offered : (standing (.pageCmd 2 .select) []).offered = some [0x00, 0xB2] := by decide

/-! ## Witnesses: for every statement with hypotheses, a concrete state and operands that meet all of them together -/

theorem witness_ResetLeavesTheUnspecifiedFramebuffer : 0 < 1024 ∧ 1023 < 1024 := by decide

theorem witness_IdleBlockWithoutCommandWaits : State.reset.seq = .idle ∧ State.reset.cmds = [] := ⟨rfl, rfl⟩

/-- The command clause; and a next state from a position that is not `Idle`, for the other. -/
theorem witness_StepRunsThePresentedCommand :
    ((presenting 0x000A0005000B []).seq = .idle ∧ (presenting 0x000A0005000B []).cmds = ⟨0x000A0005000B, []⟩ :: [] ∧
      decode (.cmd 0x000A0005000B) = .ok (.drawPixel 5 10 true)) ∧
    (standing (.initStep 0) [.ack]).seq ≠ .idle ∧
    ∃ t, step (standing (.initStep 0) [.ack]) = .next t :=
  ⟨⟨rfl, rfl, by decide⟩, by decide, _, step_bus trivial fun _ h => by cases h; decide⟩

/-- A block standing at `q` whose `INIT_SEQ` is one byte that is not the table's, and whose page bytes are not the default. -/
def otherBytes (q : Seq) : State :=
  { standing q [.ack] with cfg := { fixCfg 0 with initSeq := [0x55], pageBase := 0x40, colLow := 0x01, colHigh := 0x11 } }

/-- First and last entry, both with the table's byte and with another one; first and last page, both branches. -/
theorem witness_StepRunsTheTransactionOfItsPosition :
    ((standing (.initStep 0) [.ack]).cfg.initSeq[0]? = some 0xAE ∧ decode (.ctl (.initEntry 0) 0xAE) = .ok .initSeq00) ∧
    ((standing (.initStep 26) [.ack]).cfg.initSeq[26]? = some 0xAF ∧ decode (.ctl (.initEntry 26) 0xAF) = .ok .initSeq26) ∧
    ((otherBytes (.initStep 0)).seq = .initStep 0 ∧ (otherBytes (.initStep 0)).cfg.initSeq[0]? = some 0x55 ∧
      ∀ i, decode (.ctl (.initEntry 0) 0x55) ≠ .ok i) ∧
    ((standing (.pageCmd 0 .select) []).cfg.pageBase = 0xB0#8 ∧ (otherBytes (.pageCmd 7 .select)).cfg.pageBase ≠ 0xB0#8) ∧
    ((standing (.pageCmd 7 .colLow) []).cfg.colLow = 0x00#8 ∧ (otherBytes (.pageCmd 0 .colLow)).cfg.colLow ≠ 0x00#8) ∧
    ((standing (.pageCmd 7 .colHigh) []).cfg.colHigh = 0x10#8 ∧ (otherBytes (.pageCmd 0 .colHigh)).cfg.colHigh ≠ 0x10#8) ∧
    (standing (.pageData 7) []).seq = .pageData 7 :=
  ⟨by decide, by decide,
    ⟨rfl, rfl, fun i h => by
      rw [show decode (.ctl (.initEntry 0) 0x55) = .error .notTheRowsByte by decide +kernel] at h; cases h⟩,
    by decide, by decide, by decide, rfl⟩

/-- A legal word of every command, with the extreme coordinates. -/
theorem witness_OperandsAreTheFieldsOfTheWord :
    ((0x000000000000 : CmdWord).extractLsb' 4 4 = 0 ∧ (0x000000000000 : CmdWord).extractLsb' 0 3 = 0) ∧
    ((0xFFFFFFFFFF09 : CmdWord).extractLsb' 4 4 = 0 ∧ (0xFFFFFFFFFF09 : CmdWord).extractLsb' 0 3 = 1) ∧
    ((0x12345678AB0A : CmdWord).extractLsb' 4 4 = 0 ∧ (0x12345678AB0A : CmdWord).extractLsb' 0 3 = 2) ∧
    ((0x80008000000B : CmdWord).extractLsb' 4 4 = 0 ∧ (0x80008000000B : CmdWord).extractLsb' 0 3 = 3) ∧
    ((0x7FFF7FFFFF0C : CmdWord).extractLsb' 4 4 = 0 ∧ (0x7FFF7FFFFF0C : CmdWord).extractLsb' 0 3 = 4) ∧
    ((0x7FFF80000005 : CmdWord).extractLsb' 4 4 = 0 ∧ (0x7FFF80000005 : CmdWord).extractLsb' 0 3 = 5) := by decide

/-- Two words of each kind that agree in the fields used and differ in the others. -/
theorem witness_UnusedFieldsAreIgnored :
    ((0xFFFFFFFFFF0A : CmdWord).extractLsb' 0 3 = (0x000000000002 : CmdWord).extractLsb' 0 3 ∧
      (0xFFFFFFFFFF0A : CmdWord).extractLsb' 4 4 = (0x000000000002 : CmdWord).extractLsb' 4 4 ∧
      ((0xFFFFFFFFFF0A : CmdWord).extractLsb' 0 3).toNat < 3) ∧
    ((0x000A0005FF0B : CmdWord).extractLsb' 0 3 = (0x000A0005000B : CmdWord).extractLsb' 0 3 ∧
      (0x000A0005FF0B : CmdWord).extractLsb' 4 4 = (0x000A0005000B : CmdWord).extractLsb' 4 4 ∧
      (0x000A0005FF0B : CmdWord).extractLsb' 0 3 = 3 ∧ (0x000A0005FF0B : CmdWord).extractLsb' 16 16 = (0x000A0005000B : CmdWord).extractLsb' 16 16 ∧
      (0x000A0005FF0B : CmdWord).extractLsb' 32 16 = (0x000A0005000B : CmdWord).extractLsb' 32 16 ∧
      (0x000A0005FF0B : CmdWord).getLsbD 3 = (0x000A0005000B : CmdWord).getLsbD 3) ∧
    ((0x001C006EFF0D : CmdWord).extractLsb' 0 3 = (0x001C006E000D : CmdWord).extractLsb' 0 3 ∧
      (0x001C006EFF0D : CmdWord).extractLsb' 4 4 = (0x001C006E000D : CmdWord).extractLsb' 4 4 ∧
      (0x001C006EFF0D : CmdWord).extractLsb' 0 3 = 5 ∧ (0x001C006EFF0D : CmdWord).extractLsb' 16 16 = (0x001C006E000D : CmdWord).extractLsb' 16 16 ∧
      (0x001C006EFF0D : CmdWord).extractLsb' 32 16 = (0x001C006E000D : CmdWord).extractLsb' 32 16 ∧
      (0x001C006EFF0D : CmdWord).getLsbD 3 = (0x001C006E000D : CmdWord).getLsbD 3) := by decide

/-- Each way to be illegal, and a legal word. -/
theorem witness_IllegalWordsCompleteIllegalAndOthersAreCommands :
    (0x000000000006 : CmdWord).extractLsb' 0 3 = 6 ∧ (0x000000000007 : CmdWord).extractLsb' 0 3 = 7 ∧
    (0x000000000010 : CmdWord).extractLsb' 4 4 ≠ 0 ∧ (0x0000000000F3 : CmdWord).extractLsb' 4 4 ≠ 0 ∧
    ¬ ((0x00000000000D : CmdWord).extractLsb' 0 3 = 6 ∨ (0x00000000000D : CmdWord).extractLsb' 0 3 = 7 ∨
      (0x00000000000D : CmdWord).extractLsb' 4 4 ≠ 0) := by decide

theorem witness_ReservedRowsCompleteIllegal :
    Instr.reservedOp6 ∈ [Instr.reservedOp6, .reservedOp7, .reservedRsv7, .reservedRsv6, .reservedRsv5, .reservedRsv4] ∧
    Instr.reservedRsv4 ∈ [Instr.reservedOp6, .reservedOp7, .reservedRsv7, .reservedRsv6, .reservedRsv5, .reservedRsv4] := by
  decide

theorem witness_DecodingAnEncodingGivesTheInstruction :
    WellFormed (.drawPixel (-32768) 32767 true) ∧ WellFormed (.drawChar 32767 (-32768) 0xFF false) ∧
    WellFormed (.drawString (-32768) (-32768) true) ∧ WellFormed (.busData (List.replicate 128 0xFF)) ∧
    WellFormed (.ctlPageSelect 7) ∧ WellFormed .reservedRsv4 ∧ WellFormed .initSeq26 := by decide +kernel

theorem witness_PixelMapIsABijection : (127 < 128 ∧ 63 < 64) ∧ 1023 < 1024 ∧ 7 < 8 := by decide

theorem witness_ClearZeroesTheFramebuffer : (1023 < 1024 ∧ 127 < 128 ∧ 63 < 64) ∧ filled.fb.wf filled.cfg :=
  ⟨by decide, List.Pairwise.nil, fun _ h => nomatch h⟩

/-- The corner of the screen, and a coordinate just off each edge. -/
theorem witness_DrawPixelWritesOneBit :
    ((127 : Int) = (127 : Nat) ∧ (63 : Int) = (63 : Nat) ∧ 127 < 128 ∧ 63 < 64) ∧
    1022 ≠ 127 + 63 / 8 * 128 ∧
    ∀ p ∈ [((128 : Int), (0 : Int)), (0, 64), (-1, 0), (0, -1)], ¬ (0 ≤ p.1 ∧ p.1 < 128 ∧ 0 ≤ p.2 ∧ p.2 < 64) := by decide

theorem witness_SetPixelLaws :
    ((127 : Int) = (127 : Nat) ∧ (63 : Int) = (63 : Nat)) ∧ ¬ ((127 : Int) = (126 : Nat) ∧ (63 : Int) = (63 : Nat)) ∧
    ¬ (0 ≤ (-1 : Int) ∧ (-1 : Int) < 128 ∧ 0 ≤ (0 : Int) ∧ (0 : Int) < 64) ∧ 1023 < 1024 ∧
    [((0 : Int), (0 : Int), true), (127, 63, false)].Perm [(127, 63, false), (0, 0, true)] ∧
    ([((0 : Int), (0 : Int), true), (127, 63, false)].map fun p => (p.1, p.2.1)).Nodup :=
  ⟨by decide, by decide, by decide, by decide, .swap _ _ _, by decide⟩

/-- Codes at both ends of the glyph range and just outside; the last pixel of a cell; a pixel beside the cell. -/
theorem witness_DrawCharPaintsItsWholeCell :
    (∀ ch ∈ [(31 : Byte), 127, 0, 255], ¬ (32 ≤ ch.toNat ∧ ch.toNat ≤ 126)) ∧
    (∀ ch ∈ [(32 : Byte), 126], 32 ≤ ch.toNat ∧ ch.toNat ≤ 126) ∧
    (4 < 5 ∧ 7 < 8 ∧ 127 < 128 ∧ 63 < 64 ∧ ((127 : Nat) : Int) = 123 + (4 : Nat) ∧ ((63 : Nat) : Int) = 56 + (7 : Nat)) ∧
    ¬ ((123 : Int) ≤ (122 : Nat) ∧ ((122 : Nat) : Int) < 123 + 5 ∧ (56 : Int) ≤ (56 : Nat) ∧ ((56 : Nat) : Int) < 56 + 8) := by
  decide

theorem witness_RomReadAddressesTheGlyphTable :
    32 ≤ (32 : Byte).toNat ∧ (32 : Byte).toNat ≤ 126 ∧ 0 < 5 ∧ 32 ≤ (126 : Byte).toNat ∧ (126 : Byte).toNat ≤ 126 ∧ 4 < 5 := by
  decide

theorem witness_AlignedGlyphReplacesWholeBytes :
    32 ≤ (126 : Byte).toNat ∧ (126 : Byte).toNat ≤ 126 ∧ 7 < 8 ∧ 4 < 5 ∧ 127 < 128 ∧ ((127 : Nat) : Int) = 123 + (4 : Nat) := by
  decide

/-- A row of the cell in the last page, and a bit below the cell's last row. -/
theorem witness_ClippedGlyphClosedForm :
    (32 ≤ (32 : Byte).toNat ∧ (32 : Byte).toNat ≤ 126 ∧ 127 < 128 ∧ 7 < 8) ∧
    (2 < 5 ∧ 3 < 8 ∧ ((127 : Nat) : Int) = 125 + (2 : Nat) ∧ ((8 * 7 + 7 : Nat) : Int) = 60 + (3 : Nat)) ∧
    ∀ i j : Nat, i < 5 → j < 8 → ¬ (((0 : Nat) : Int) = (-2 : Int) + i ∧ ((8 * 0 + 5 : Nat) : Int) = (-3 : Int) + j) :=
  ⟨by decide, by decide, fun i j _ hj => by omega⟩

theorem witness_GlyphInverseLaw :
    32 ≤ (126 : Byte).toNat ∧ (126 : Byte).toNat ≤ 126 ∧ 127 < 128 ∧ 63 < 64 ∧ 1023 < 1024 := by decide

/-- The blank block with `"A\x07B"`, its terminator and one byte more at the text port. -/
def withText : State := { blank with text := [0x41, 0x07, 0x42] ++ 0 :: [0x42] }

theorem witness_DrawStringDrawsItsCharactersSixApart :
    withText.text = [0x41, 0x07, 0x42] ++ 0 :: [0x42] ∧ ∀ b ∈ ([0x41, 0x07, 0x42] : List Byte), b ≠ 0 :=
  ⟨rfl, by decide⟩

/-- The last pixel of the last character of `"A\x07B"` at `(0, 0)`; the spacing column after `A` and the cell of `0x07`. -/
theorem witness_StringPictureAndSpacingColumns :
    (withText.text = [0x41, 0x07, 0x42] ++ 0 :: [0x42] ∧ ∀ b ∈ ([0x41, 0x07, 0x42] : List Byte), b ≠ 0) ∧
    (([0x41, 0x07, 0x42] : List Byte)[2]? = some 0x42 ∧ 32 ≤ (0x42 : Byte).toNat ∧ (0x42 : Byte).toNat ≤ 126 ∧ 4 < 5 ∧ 7 < 8 ∧
      ((16 : Nat) : Int) = 0 + (6 * 2 + 4 : Nat) ∧ ((7 : Nat) : Int) = 0 + (7 : Nat)) ∧
    ∀ x' ∈ [5, 6, 11], ∀ (k : Nat) (ch : Byte) (i j : Nat), ([0x41, 0x07, 0x42] : List Byte)[k]? = some ch → 32 ≤ ch.toNat →
      ch.toNat ≤ 126 → i < 5 → j < 8 → ¬ (((x' : Nat) : Int) = 0 + (6 * k + i : Nat) ∧ ((0 : Nat) : Int) = 0 + j) := by
  refine ⟨⟨rfl, by decide⟩, by decide, fun x' hx k ch i j hk h1 _ hi _ h => ?_⟩
  match k, hk with
  | 0, _ => simp only [List.mem_cons, List.not_mem_nil, or_false] at hx; omega
  | 1, hk =>
    have : ch = 0x07 := by simpa using hk.symm
    subst this; exact absurd h1 (by decide)
  | 2, _ => simp only [List.mem_cons, List.not_mem_nil, or_false] at hx; omega

theorem witness_UnterminatedTextNeverCompletes :
    (∀ b ∈ ({ blank with text := [0x41, 0xFF] } : State).text, b ≠ 0) ∧ ∀ b ∈ blank.text, b ≠ 0 :=
  ⟨by decide, fun _ h => nomatch h⟩

/-- Acknowledged at every position that sends a command, the first and the last entry among them, and at `Idle`; and a
fault in INIT and outside it. -/
theorem witness_BusCmdSendsOneCommandTransaction :
    ((standing (.initStep 0) [.ack]).answers = .ack :: [] ∧ 0 + 1 < (standing (.initStep 0) [.ack]).cfg.initSeq.length) ∧
    (25 + 1 < (standing (.initStep 25) [.ack]).cfg.initSeq.length ∧
      (standing (.initStep 26) [.ack]).cfg.initSeq.length ≤ 26 + 1) ∧
    (∀ k ∈ [PageCmdKind.select, .colLow, .colHigh], (standing (.pageCmd 7 k) [.ack]).answers = .ack :: [] ∧
      (standing (.pageCmd 7 k) [.ack]).seq = .pageCmd 7 k) ∧
    (standing .idle [.ack]).seq = .idle ∧
    ((standing (.initStep 26) [.fault 9]).answers = .fault 9 :: [] ∧
      (standing (.initStep 26) [.fault 9]).seq = .initStep 26) ∧
    ((standing (.pageCmd 0 .select) [.fault 0]).answers = .fault 0 :: [] ∧
      ∀ is, (standing (.pageCmd 0 .select) [.fault 0]).seq ≠ .initStep is) :=
  ⟨by decide, by decide, by decide, rfl, ⟨rfl, rfl⟩, rfl, fun _ h => nomatch h⟩

theorem witness_PageRowsSetThePointersOfTheirPage :
    ∀ pg ∈ [(0 : Fin 8), 7], ∀ k ∈ [PageCmdKind.select, .colLow, .colHigh],
      (standing (.pageCmd pg k) [.ack]).answers = .ack :: [] ∧ (standing (.pageCmd pg k) [.ack]).seq = .pageCmd pg k ∧
      (standing (.pageCmd pg k) [.ack]).panelSaid = true := by decide

theorem witness_BusDataSendsOneDataTransaction :
    ((standing (.pageData 6) [.ack]).answers = .ack :: [] ∧ (standing (.pageData 6) [.ack]).seq = .pageData 6 ∧
      (7 : Fin 8).val = (6 : Fin 8).val + 1) ∧
    ((standing (.pageData 7) [.ack]).answers = .ack :: [] ∧ (standing (.pageData 7) [.ack]).seq = .pageData 7) ∧
    (standing (.pageData 0) [.fault 7]).answers = .fault 7 :: [] := by decide

/-- The first and the last row, each where it is not the last entry and where it is. -/
theorem witness_InitRowsSendTheirBytes :
    (standing (.initStep 0) [.ack]).answers = .ack :: [] ∧ (standing (.initStep 0) [.ack]).seq = .initStep 0 ∧
    0 + 1 < (standing (.initStep 0) [.ack]).cfg.initSeq.length ∧
    (otherBytes (.initStep 0)).cfg.initSeq.length ≤ 0 + 1 ∧ (otherBytes (.initStep 0)).answers = .ack :: [] ∧
    (standing (.initStep 26) [.ack]).seq = .initStep 26 ∧ (standing (.initStep 26) [.ack]).cfg.initSeq.length ≤ 26 + 1 ∧
    26 + 1 < ({ fixCfg 0 with initSeq := Config.initSeqDefault ++ [0xAF] } : Cfg).initSeq.length := by decide

theorem witness_FaultedTransactionRaisesBusFault :
    ((standing (.initStep 26) [.fault 9]).answers = .fault 9 :: [] ∧
      (standing (.initStep 26) [.fault 9]).cfg.initSeq[26]? = some 0xAF) ∧
    ((standing (.pageCmd 7 .colHigh) [.fault 9, .ack]).answers = .fault 9 :: [.ack] ∧
      (standing (.pageCmd 7 .colHigh) [.fault 9, .ack]).seq = .pageCmd 7 .colHigh) ∧
    ((standing (.pageData 0) [.fault 0]).answers = .fault 0 :: [] ∧ (standing (.pageData 0) [.fault 0]).seq = .pageData 0) := by
  decide

theorem witness_UnansweredTransactionStallsTheBlock :
    ((standing (.initStep 26) []).answers = [] ∧ 26 < (standing (.initStep 26) []).cfg.initSeq.length) ∧
    (standing (.pageCmd 0 .select) []).answers = [] ∧ (standing (.pageData 7) []).seq = .pageData 7 := by decide

/-- Acknowledged throughout; the first and the last transaction faulted. -/
theorem witness_InitSendsItsSequenceInOrder :
    (standing .idle (acks 27 ++ [BusAnswer.ack])).answers = acks (standing .idle (acks 27 ++ [BusAnswer.ack])).cfg.initSeq.length ++ [BusAnswer.ack] ∧
    ((standing .idle (acks 0 ++ BusAnswer.fault 9 :: [])).answers = acks 0 ++ BusAnswer.fault 9 :: [] ∧
      (standing .idle []).cfg.initSeq[0]? = some 0xAE) ∧
    ((standing .idle (acks 26 ++ BusAnswer.fault 9 :: [])).answers = acks 26 ++ BusAnswer.fault 9 :: [] ∧
      (standing .idle []).cfg.initSeq[26]? = some 0xAF) := by decide +kernel

theorem witness_ControllerTakesTheAcknowledgedEntries :
    (standing .idle (acks 27)).answers = acks (standing .idle (acks 27)).cfg.initSeq.length ++ [] ∧
    (0 < (standing .idle []).cfg.initSeq.length ∧
      (standing .idle (acks 0 ++ [BusAnswer.fault 9])).answers = acks 0 ++ BusAnswer.fault 9 :: []) ∧
    26 < (standing .idle []).cfg.initSeq.length ∧
      (standing .idle (acks 26 ++ [BusAnswer.fault 9])).answers = acks 26 ++ BusAnswer.fault 9 :: [] := by decide +kernel

theorem witness_InitStandsWhereItIsNotAnswered :
    (0 < (standing .idle (acks 0)).cfg.initSeq.length ∧ (standing .idle (acks 0)).answers = acks 0) ∧
    26 < (standing .idle (acks 26)).cfg.initSeq.length ∧ (standing .idle (acks 26)).answers = acks 26 := by decide

/-- Acknowledged throughout; the first and the last transaction faulted. -/
theorem witness_UpdateSendsEveryPageInOrder :
    (standing .idle (acks 32 ++ [BusAnswer.ack])).answers = acks 32 ++ [BusAnswer.ack] ∧
    ((standing .idle (acks 0 ++ BusAnswer.fault 9 :: [])).answers = acks 0 ++ BusAnswer.fault 9 :: [] ∧
      (standing .idle []).updatePayloads[0]? = some ((standing .idle []).updatePayload 0)) ∧
    ((standing .idle (acks 31 ++ BusAnswer.fault 9 :: [])).answers = acks 31 ++ BusAnswer.fault 9 :: [] ∧
      (standing .idle []).updatePayloads[31]? = some ((standing .idle []).updatePayload 31)) :=
  ⟨rfl, ⟨rfl, State.updatePayloads_get _ (by decide)⟩, rfl, State.updatePayloads_get _ (by decide)⟩

theorem witness_UpdateTraceByIndex : (standing .idle (acks 32 ++ [])).answers = acks 32 ++ [] ∧ 0 < 8 ∧ 7 < 8 := by decide

/-- The default bytes, and the largest `PAGE_BASE` that is well-formed. -/
theorem witness_PageSelectByteNeverCarries :
    Config.defaultCfg.wf ∧ ({ fixCfg 0 with pageBase := 0xF8 } : Cfg).wf :=
  ⟨⟨show (0xB0 : Byte).toNat + 7 ≤ 255 by decide, rfl, rfl⟩, by decide⟩

theorem witness_AcknowledgedUpdateMakesThePanelTheFramebuffer :
    (standing .idle (acks 32)).panelSaid = true ∧ (standing .idle (acks 32)).answers = acks 32 ++ [] := by decide

/-- Every clause: page 2's data faulted, page 7's data faulted, and a command of page 0 faulted. -/
theorem witness_FaultedUpdateLeavesLaterPagesStale :
    (∀ n ∈ [0, 11, 31], (standing .idle (acks n ++ BusAnswer.fault 7 :: [])).panelSaid = true ∧ n < 32 ∧
      (standing .idle (acks n ++ BusAnswer.fault 7 :: [])).answers = acks n ++ BusAnswer.fault 7 :: []) ∧
    (1 < 11 / 4 ∧ 2 = 11 / 4 ∧ 11 % 4 = 3 ∧ 11 / 4 < 3) ∧ (6 < 31 / 4 ∧ 7 = 31 / 4 ∧ 31 % 4 = 3) ∧
    (0 = 0 / 4 ∧ 0 % 4 ≠ 3 ∧ 0 / 4 < 7) := by decide +kernel

/-- Both grounds to say nothing: an uninitialised controller, and an `INIT_SEQ` that is not a faithful instance. -/
theorem witness_NothingIsSaidOfThePanelOtherwise :
    ∀ s ∈ [{ standing (.pageData 7) [BusAnswer.ack] with ctrl := .uninitialized },
        { standing (.pageCmd 7 .select) [BusAnswer.fault 9] with cfg := { fixCfg 0 with initSeq := [] } }],
      s.panelSaid = false ∧ s.answers ≠ [] ∧ ∃ t, exec .ctlColLow s = .next t := by
  refine fun s hs => ⟨?_, ?_, exec_next _ s⟩ <;> revert s <;> decide

theorem witness_DrawingTouchesOnlyTheFramebuffer :
    ∀ i ∈ [Instr.clear, .drawPixel 0 0 true, .drawChar 0 0 0x41 true, .drawString 0 0 true], ∃ t, exec i blank = .next t :=
  fun i _ => exec_next i blank

theorem witness_BusSideLeavesEveryByteOfTheFramebuffer :
    ∀ i ∈ [Instr.init, .update, .busCmd 0xAE, .busData (List.replicate 128 0), .ctlPageSelect 7, .ctlColLow, .ctlColHigh,
      .initSeq00, .initSeq26], ∃ t, exec i (standing .idle [.ack]) = .next t := fun i _ => exec_next i _

theorem witness_StepNeverChangesTheConfiguration : ∃ t, step State.reset = .next t := ⟨_, rfl⟩

/-- INIT from `Idle` that ends in `Ready`, and a fault inside INIT that ends it. -/
theorem witness_OnlyInitWritesControllerState :
    seen (step { presenting 0x000000000000 [] with answers := acks 27 }) (fun t => decide (t.ctrl ≠ blank.ctrl)) = some true ∧
    seen (step (standing (.initStep 3) [.fault 9])) (fun t => decide (t.ctrl ≠ (standing (.initStep 3) [.fault 9]).ctrl)) =
      some true := by decide +kernel

theorem witness_StepOnlyAddsToTheHistories : ∃ t, step (standing (.pageData 7) [.ack]) = .next t :=
  ⟨_, step_bus trivial fun _ h => nomatch h⟩

/-- A drawing command, an acknowledged INIT and a faulted UPDATE, each ending with one completion. -/
theorem witness_DrawingEndsOnlyWithOk :
    (∃ t, exec (.drawPixel 0 0 true) blank = .next t ∧ t.completions = blank.completions ++ [Completion.ok]) ∧
    seen (exec .init { blank with answers := acks 27 }) (·.completions) = some (blank.completions ++ [Completion.ok]) ∧
    seen (exec .update { blank with answers := [BusAnswer.fault 9] }) (·.completions) = some (blank.completions ++ [Completion.busFault 9]) :=
  ⟨⟨_, rfl, rfl⟩, by decide +kernel, by decide +kernel⟩

theorem witness_WorkingRegistersAreDeadWhileIdle :
    State.reset.seq = .idle ∧ (presenting 0x000A0005000B []).seq = .idle := ⟨rfl, rfl⟩

/-- A legal block in the middle of INIT. -/
theorem legal_in_init : State.Legal { standing (.initStep 0) [.ack] with ctrl := .uninitialized } where
  cfg := by decide
  fb := ⟨List.Pairwise.nil, fun _ h => nomatch h⟩
  position := ⟨by decide, rfl, 0, rfl⟩
  unsaid := fun _ => ⟨0, rfl⟩
  trace := fun _ h => nomatch h
  answers := fun _ _ => trivial
  completions := fun _ h => nomatch h

/-- A `Ready` block in the middle of UPDATE, at the data of page 1, with the transport about to fault it: page 0 of the panel
shows the framebuffer's, the pointers are page 1's, and every other page holds `0xFF`. -/
def inUpdate : State :=
  { standing (.pageData 1) [.fault 9] with
    latches := { Latches.reset with op := .update, col := 127 }
    controller := ⟨[], ⟨1, 0, 0, litPanel.regs.panel.set 0 (Vector.replicate 128 0)⟩, 1⟩ }

theorem legal_in_update : State.Legal inUpdate where
  cfg := by decide
  fb := ⟨List.Pairwise.nil, fun _ h => nomatch h⟩
  position := ⟨rfl, fun _ => ⟨fun p hp => by
    have : p = 0 := by have : p.val < 1 := hp; omega
    subst this; decide +kernel, rfl, rfl, rfl⟩⟩
  unsaid := fun h => absurd h (by decide)
  trace := fun _ h => nomatch h
  answers := fun _ _ => trivial
  completions := fun _ h => nomatch h

theorem witness_StepKeepsLegalStates :
    (State.Legal { standing (.initStep 0) [.ack] with ctrl := .uninitialized } ∧
      ∃ t, step { standing (.initStep 0) [.ack] with ctrl := .uninitialized } = .next t) ∧
    State.Legal inUpdate ∧ inUpdate.panelSaid = true ∧ ∃ t, step inUpdate = .next t :=
  ⟨⟨legal_in_init, _, step_bus trivial fun _ h => by cases h; decide⟩,
    legal_in_update, by decide, _, step_bus trivial fun _ h => nomatch h⟩

theorem witness_ResetStateIsLegal : (fixCfg 0).wf ∧ ({ fixCfg 0 with pageBase := 0xF8 } : Cfg).wf := by decide

theorem witness_LegalStatesAlwaysStep :
    State.Legal { standing (.initStep 0) [.ack] with ctrl := .uninitialized } ∧ State.Legal inUpdate :=
  ⟨legal_in_init, legal_in_update⟩

theorem witness_SequencerMovesMakeTheAtomicCommands :
    ∀ ch ∈ [(32 : Byte), 126], 32 ≤ ch.toNat ∧ ch.toNat ≤ 126 := by decide

end Sys2Proof.Tests
end

section
/-! # Proofs for `10_state.md`

The instructions by what they do (`HostRow`, `BusRow`), the legal states, UPDATE's panel, the sequencer's moves, and what the
block does not read. -/

namespace Sys2Proof.Machine

/-! ## The instructions by what they do -/

/-- A row of the command word, by its meaning: INIT, UPDATE and DRAW_STRING; the commands that change the framebuffer alone and
complete `OK`; the illegal words. -/
inductive HostRow : Instr → Prop
  | init : HostRow .init
  | update : HostRow .update
  | drawString (x y : Int) (on : Bool) : HostRow (.drawString x y on)
  | paint {i : Instr} (f : Cfg → Memory → Memory) (hwf : ∀ c m, Memory.wf c m → Memory.wf c (f c m))
      (h : ∀ s, exec i s = .next (State.complete .ok { s with fb := f s.cfg s.fb })) : HostRow i
  | illegal {i : Instr} (h : ∀ s, exec i s = .next s.raiseIllegal) : HostRow i

/-- A row of the bus side, by the one transaction it makes. -/
inductive BusRow : Instr → Prop
  | command {i : Instr} (p : Seq → Option CtlPos) (b : Byte)
      (h : ∀ s, exec i s = .next (s.sendCommand (p s.seq) b)) : BusRow i
  | data (d : List Byte) : BusRow (.busData d)

theorem hostRow_clear : HostRow .clear := .paint clearFb (fun _ _ h => clearFb_wf h) exec_clear

theorem hostRow_drawPixel (x y : Int) (on : Bool) : HostRow (.drawPixel x y on) :=
  .paint (fun c m => setPixel c x y on m) (fun _ _ h => setPixel_wf x y on h) (exec_drawPixel x y on)

theorem hostRow_drawChar (x y : Int) (ch : Byte) (on : Bool) : HostRow (.drawChar x y ch on) :=
  .paint (fun c m => drawChar c x y ch on m) (fun _ _ h => drawChar_wf x y ch on h) (exec_drawChar x y ch on)

theorem busRow_ctl (pos : CtlPos) {i : Instr} {b : Byte}
    (h : ∀ s, exec i s = .next (s.sendCommand (some pos) b)) : BusRow i := .command (fun _ => some pos) b h

/-- The 27 rows of INIT, each at its entry. -/
theorem busRow_initSeq {i : Instr} (h : i ∈ initSeqInstrs) : BusRow i := by
  obtain ⟨k, hk⟩ := List.mem_iff_getElem?.1 h
  have hlt : k < Config.initSeqDefault.length := (List.getElem?_eq_some_iff.1 hk).1
  exact busRow_ctl (.initEntry k) (exec_initSeqInstrs hk (List.getElem?_eq_getElem hlt))

/-- Every instruction is one of the two. -/
theorem hostRow_or_busRow (i : Instr) : HostRow i ∨ BusRow i := by
  cases i with
  | init => exact .inl .init
  | clear => exact .inl hostRow_clear
  | update => exact .inl .update
  | drawPixel x y on => exact .inl (hostRow_drawPixel x y on)
  | drawChar x y ch on => exact .inl (hostRow_drawChar x y ch on)
  | drawString x y on => exact .inl (.drawString x y on)
  | reservedOp6 | reservedOp7 | reservedRsv7 | reservedRsv6 | reservedRsv5 | reservedRsv4 =>
    exact .inl (.illegal fun _ => rfl)
  | busCmd b => exact .inr (.command ctlPosAt b fun _ => rfl)
  | busData d => exact .inr (.data d)
  | ctlPageSelect pg => exact .inr (busRow_ctl (.pageSelect pg) fun _ => rfl)
  | ctlColLow => exact .inr (busRow_ctl .colLow fun _ => rfl)
  | ctlColHigh => exact .inr (busRow_ctl .colHigh fun _ => rfl)
  | initSeq00 | initSeq01 | initSeq02 | initSeq03 | initSeq04 | initSeq05 | initSeq06 | initSeq07 | initSeq08
  | initSeq09 | initSeq10 | initSeq11 | initSeq12 | initSeq13 | initSeq14 | initSeq15 | initSeq16 | initSeq17
  | initSeq18 | initSeq19 | initSeq20 | initSeq21 | initSeq22 | initSeq23 | initSeq24 | initSeq25 | initSeq26 =>
    exact .inr (busRow_initSeq (by decide))

theorem hostRow_opRow (w : CmdWord) : HostRow (opRow w) := by
  unfold opRow
  split
  · exact .init
  · exact hostRow_clear
  · exact .update
  · exact hostRow_drawPixel ..
  · exact hostRow_drawChar ..
  · exact .drawString ..
  all_goals exact .illegal fun _ => rfl

/-- A command word is always a row of the host side (R55). -/
theorem hostRow_decodeCmd (w : CmdWord) : HostRow (decodeCmd w) := by
  unfold decodeCmd
  rcases reservedRow_cases w with h | h | h | h | h <;> rw [h]
  · exact hostRow_opRow w
  all_goals exact .illegal fun _ => rfl

/-! ## The step of an idle block -/

theorem step_idle_waiting {s : State} (hq : s.seq = .idle) (hc : s.cmds = []) : step s = .next s := by
  simp only [step, State.fetch, hq, hc]

theorem step_idle_command {s : State} {c : HostCommand} {rest : List HostCommand} (hq : s.seq = .idle)
    (hc : s.cmds = c :: rest) : step s = exec (decodeCmd c.word) (s.accept c rest) := by
  simp only [step, State.fetch, hq, hc]

/-- Settles O3: there is nothing to fetch. -/
theorem idleBlockWithoutCommandWaits : Obligations.IdleBlockWithoutCommandWaits :=
  fun _ => step_idle_waiting

end Sys2Proof.Machine
end

section
namespace Sys2Proof.Machine

/-! ## One answered transaction -/

/-- The transport has given answer `a` to the transaction with payload `p`, and the controller is then `k`. -/
def State.answered (a : BusAnswer) (rest : List BusAnswer) (p : List Byte) (k : Controller) (s : State) : State :=
  { s with answers := rest, trace := s.trace ++ [⟨Config.devAddr, p, a⟩], controller := k }

section
variable (s : State) (a : BusAnswer) (rest : List BusAnswer) (p : List Byte) (k : Controller)

@[simp] theorem State.answered_cfg : (s.answered a rest p k).cfg = s.cfg := rfl
@[simp] theorem State.answered_fb : (s.answered a rest p k).fb = s.fb := rfl
@[simp] theorem State.answered_ctrl : (s.answered a rest p k).ctrl = s.ctrl := rfl
@[simp] theorem State.answered_seq : (s.answered a rest p k).seq = s.seq := rfl
@[simp] theorem State.answered_controller : (s.answered a rest p k).controller = k := rfl
@[simp] theorem State.answered_panelSaid : (s.answered a rest p k).panelSaid = s.panelSaid := rfl
end

section
variable {s : State} {rest : List BusAnswer}

/-- INIT's transaction, acknowledged. -/
theorem State.busStep_initStep_ack {is : Nat} {b : Byte} (hq : s.seq = .initStep is) (hb : s.cfg.initSeq[is]? = some b)
    (ha : s.answers = .ack :: rest) :
    s.busStep = (s.answered .ack rest (cmdPayload b)
      { s.controller.forget with taken := s.controller.taken ++ [b] }).enterInit (is + 1) := by
  rw [State.busStep_initStep hq hb, State.sendCommand_ack _ b ha, State.afterCommand]
  simp only [hq]
  rfl

/-- The position after command `k` of page `pg`, as the state there. -/
def State.afterPageCmd (pg : Fin 8) (k : PageCmdKind) (s : State) : State :=
  match k with
  | .select => { s with seq := .pageCmd pg .colLow }
  | .colLow => { s with seq := .pageCmd pg .colHigh }
  | .colHigh => s.enterPageData pg

/-- A page command, acknowledged. -/
theorem State.busStep_pageCmd_ack {pg : Fin 8} {k : PageCmdKind} (hq : s.seq = .pageCmd pg k)
    (ha : s.answers = .ack :: rest) :
    s.busStep = (s.answered .ack rest (cmdPayload (pageByte s.cfg pg k))
      (s.controller.takeCommand s.panelSaid (some (pagePos pg k)) (pageByte s.cfg pg k))).afterPageCmd pg k := by
  rw [State.busStep_pageCmd hq, State.sendCommand_ack _ _ ha, State.afterCommand]
  cases k <;> simp only [hq] <;> rfl

/-- A page's data, acknowledged; `col` is at 127 where the slice stands to be sent (R104). -/
theorem State.busStep_pageData_ack {pg : Fin 8} (hq : s.seq = .pageData pg) (ha : s.answers = .ack :: rest) :
    s.busStep =
      State.enterPageAfter pg
        { s.answered .ack rest (dataPayload (s.slice pg)) (s.controller.takeData s.panelSaid (s.slice pg)) with
          latches := { s.latches with col := 127 } } := by
  rw [State.busStep_pageData hq, State.sendSlice_ack _ ha, State.afterData]
  simp only [hq]
  rfl

/-- A faulted transaction ends the command with `BUS_FAULT` (R121). -/
theorem State.busStep_fault {e : FaultInfo} (ha : s.answers = .fault e :: rest)
    (hq : s.seq.isBus) (hr : ∀ is, s.seq = .initStep is → is < s.cfg.initSeq.length) :
    s.busStep.seq = .idle ∧ s.busStep.completions = s.completions ++ [.busFault e] := by
  cases hs : s.seq with
  | initStep is =>
    rw [State.busStep_initStep hs (List.getElem?_eq_getElem (hr is hs)), State.sendCommand_fault _ _ ha]
    exact ⟨rfl, rfl⟩
  | pageCmd pg k => rw [State.busStep_pageCmd hs, State.sendCommand_fault _ _ ha]; cases k <;> exact ⟨rfl, rfl⟩
  | pageData pg => rw [State.busStep_pageData hs, State.sendSlice_fault _ ha]; exact ⟨rfl, rfl⟩
  | idle | settle | clearing _ | pixel | glyph _ _ | nextChar => rw [hs] at hq; exact hq.elim

end

/-! ## Legal states (R14, R36, R58, R95): what holds wherever the sequencer stands -/

/-- What `State.Legal` says besides the position. -/
structure State.Sound (s : State) : Prop where
  cfg : s.cfg.wf
  fb : s.fb.wf s.cfg
  unsaid : s.panelSaid = false → s.controller.unsaid
  trace : ∀ e ∈ s.trace, e.legal s.cfg
  answers : ∀ e, .fault e ∈ s.answers → s.cfg.faultInfo.has e
  completions : ∀ e, .busFault e ∈ s.completions → s.cfg.faultInfo.has e

theorem State.legal_iff {s : State} : s.Legal ↔ s.Sound ∧ s.positionLegal :=
  ⟨fun h => ⟨⟨h.cfg, h.fb, h.unsaid, h.trace, h.answers, h.completions⟩, h.position⟩,
    fun ⟨h, hp⟩ => ⟨h.cfg, h.fb, hp, h.unsaid, h.trace, h.answers, h.completions⟩⟩

section
variable {s : State}

/-- The position, the working registers and the host's ports are no part of it. -/
theorem State.Sound.move (h : s.Sound) (q : Seq) (l : Latches) (cs : List HostCommand) (bs : List Byte) :
    State.Sound { s with seq := q, latches := l, cmds := cs, text := bs } :=
  ⟨h.cfg, h.fb, h.unsaid, h.trace, h.answers, h.completions⟩

theorem State.Sound.paint (h : s.Sound) {m : Memory} (hm : m.wf s.cfg) : State.Sound { s with fb := m } :=
  ⟨h.cfg, hm, h.unsaid, h.trace, h.answers, h.completions⟩

theorem State.Sound.complete (h : s.Sound) {r : Completion} (hr : ∀ e, r = .busFault e → s.cfg.faultInfo.has e) :
    (s.complete r).Sound := by
  refine ⟨h.cfg, h.fb, h.unsaid, h.trace, h.answers, fun e he => ?_⟩
  rw [State.complete_completions, List.mem_append, List.mem_singleton] at he
  exact he.elim (h.completions e) fun he => hr e he.symm

theorem State.Sound.complete_ok (h : s.Sound) : (s.complete .ok).Sound := h.complete (r := .ok) fun _ he => nomatch he

theorem State.Sound.raiseIllegal (h : s.Sound) : s.raiseIllegal.Sound := by
  refine ⟨h.cfg, h.fb, h.unsaid, h.trace, h.answers, fun e he => ?_⟩
  rw [State.raiseIllegal_completions, List.mem_append, List.mem_singleton] at he
  exact he.elim (h.completions e) fun he => nomatch he

/-- Where nothing is said of the panel in `Ready`, nothing was said before. -/
theorem State.Sound.setReady (h : s.Sound) : s.setReady.Sound := by
  refine ⟨h.cfg, h.fb, fun hf => h.unsaid ?_, h.trace, h.answers, h.completions⟩
  have hc : faithful s.cfg = false := hf
  rw [State.panelSaid, hc, Bool.and_false]

theorem State.Sound.answered (h : s.Sound) {a : BusAnswer} {rest : List BusAnswer} {p : List Byte} {k : Controller}
    (ha : s.answers = a :: rest) (hp : (∃ b, p = cmdPayload b) ∨ ∃ d, d.length = 128 ∧ p = dataPayload d)
    (hk : s.panelSaid = false → k.unsaid) : (s.answered a rest p k).Sound := by
  have hx : ∀ e, .fault e ∈ a :: rest → s.cfg.faultInfo.has e := fun e he => h.answers e (ha ▸ he)
  refine ⟨h.cfg, h.fb, hk, fun e he => ?_, fun e he => hx e (List.mem_cons_of_mem _ he), h.completions⟩
  rcases List.mem_append.1 he with he | he
  · exact h.trace e he
  · rw [List.mem_singleton] at he
    subst he
    exact ⟨rfl, hp, fun e (he : a = .fault e) => hx e (he ▸ List.mem_cons_self)⟩

theorem State.Sound.enterInit (h : s.Sound) (is : Nat) : (s.enterInit is).Sound := by
  by_cases hi : is < s.cfg.initSeq.length
  · rw [State.enterInit_more hi]; exact h.move ..
  · rw [State.enterInit_done (by omega)]; exact h.setReady.complete_ok

theorem State.Sound.enterPageAfter (h : s.Sound) (pg : Fin 8) : (s.enterPageAfter pg).Sound := by
  by_cases hp : pg.val + 1 < 8
  · rw [State.enterPageAfter_more hp]; exact h.move ..
  · rw [State.enterPageAfter_last hp]; exact h.complete_ok

theorem State.Sound.afterCommand (h : s.Sound) : s.afterCommand.Sound := by
  unfold State.afterCommand
  split
  · exact h.enterInit _
  · exact h.move ..
  · exact h.move ..
  · exact h.move ..
  · exact h

theorem State.Sound.afterData (h : s.Sound) : s.afterData.Sound := by
  unfold State.afterData
  split
  · exact h.enterPageAfter _
  · exact h

/-- A fault of INIT leaves `Uninitialized`, and nothing said (R22, R124). -/
theorem State.Sound.dropReady (h : s.Sound) {pos : Option CtlPos}
    (hk : ∀ is, pos = some (.initEntry is) → s.controller.unsaid) : (s.dropReady pos).Sound := by
  unfold State.dropReady
  split
  · exact ⟨h.cfg, h.fb, fun _ => hk _ rfl, h.trace, h.answers, h.completions⟩
  · exact h

theorem State.dropReady_cfg (s : State) (pos : Option CtlPos) : (s.dropReady pos).cfg = s.cfg :=
  (SameStores.dropReady s pos).1

theorem State.Sound.sendCommand (h : s.Sound) (pos : Option CtlPos) (b : Byte) : (s.sendCommand pos b).Sound := by
  cases ha : s.answers with
  | nil => rwa [State.sendCommand_waiting pos b ha]
  | cons a rest =>
    cases a with
    | ack =>
      rw [State.sendCommand_ack pos b ha]
      exact (h.answered ha (.inl ⟨b, rfl⟩) fun hf => hf ▸ Controller.takeCommand_unsaid pos b _).afterCommand
    | fault e =>
      rw [State.sendCommand_fault pos b ha]
      have hs := h.answered (k := s.controller.missCommand s.panelSaid pos) ha (.inl ⟨b, rfl⟩)
        fun hf => hf ▸ Controller.missCommand_unsaid pos _
      refine (hs.dropReady fun is hi => ?_).complete fun e' he => ?_
      · subst hi
        rw [State.answered_controller, Controller.missCommand_initEntry]
        exact Controller.unsaid_forget _
      · cases he
        rw [State.dropReady_cfg]
        exact h.answers e (ha ▸ List.mem_cons_self)

theorem State.Sound.sendSlice (h : s.Sound) {d : List Byte} (hd : d.length = 128) : (s.sendSlice d).Sound := by
  cases ha : s.answers with
  | nil => rwa [State.sendSlice_waiting d ha]
  | cons a rest =>
    cases a with
    | ack =>
      rw [State.sendSlice_ack d ha]
      have hs := h.answered (k := s.controller.takeData s.panelSaid d) ha (.inr ⟨d, hd, rfl⟩)
        fun hf => hf ▸ Controller.takeData_unsaid d _
      exact (hs.move s.seq { s.latches with col := 127 } s.cmds s.text).afterData
    | fault e =>
      rw [State.sendSlice_fault d ha]
      have hs := h.answered (k := s.controller.missData s.panelSaid) ha (.inr ⟨d, hd, rfl⟩)
        fun hf => hf ▸ Controller.missData_unsaid _
      refine hs.complete fun e' he => ?_
      cases he
      exact h.answers e (ha ▸ List.mem_cons_self)

theorem State.Sound.busStep (h : s.Sound) : s.busStep.Sound := by
  unfold State.busStep
  split
  · split
    · exact h.sendCommand ..
    · exact h
  · exact h.sendCommand ..
  · exact h.sendSlice (State.slice_length s _)
  · exact h

theorem State.Sound.glyphNext (h : s.Sound) (gi : Fin 5) (gj : Fin 8) : (s.glyphNext gi gj).Sound := by
  by_cases hj : gj.val + 1 < 8
  · rw [State.glyphNext_row hj]; exact h.move ..
  · by_cases hi : gi.val + 1 < 5
    · rw [State.glyphNext_column hj hi]; exact h.move ..
    · rw [State.glyphNext_done hj hi, State.glyphDone]
      split
      · exact h.move ..
      · exact h.complete_ok

theorem State.Sound.takeChar (h : s.Sound) : s.takeChar.Sound := by
  unfold State.takeChar
  split
  · exact h
  · rename_i b rest ht
    have ht := h.move s.seq { s.latches with oc := b } s.cmds rest
    dsimp only
    split
    · exact ht.complete_ok
    · split
      · exact ht.move ..
      · exact ht.move ..

theorem State.Sound.innerStep (h : s.Sound) : s.innerStep.Sound := by
  cases hq : s.seq with
  | settle => rw [State.innerStep_settle hq]; exact h.enterInit 0
  | clearing ci =>
    rw [State.innerStep_clearing hq]
    have hm := h.paint (Memory.wf_write h.fb ci.isLt 0)
    by_cases hc : ci.val + 1 < 1024
    · rw [State.clearNext_more hc]; exact hm.move ..
    · rw [State.clearNext_last hc]; exact hm.complete_ok
  | pixel => rw [State.innerStep_pixel hq]; exact (h.paint (setPixel_wf _ _ _ h.fb)).complete_ok
  | glyph gi gj => rw [State.innerStep_glyph hq]; exact (h.paint (setPixel_wf _ _ _ h.fb)).glyphNext gi gj
  | nextChar => rw [State.innerStep_nextChar hq]; exact h.takeChar
  | idle | initStep _ | pageCmd _ _ | pageData _ => simp only [State.innerStep, hq]; exact h

end

/-! ## Legal states: the position -/

theorem State.positionLegal_of_idle {s : State} (h : s.seq = .idle) : s.positionLegal := by
  simp only [State.positionLegal, h]

theorem State.positionLegal_enterInit {s : State} {is : Nat} (ht : s.controller.taken = s.cfg.initSeq.take is)
    (hu : s.controller.unsaid) : (s.enterInit is).positionLegal := by
  by_cases h : is < s.cfg.initSeq.length
  · rw [State.enterInit_more h]; exact ⟨h, ht, hu⟩
  · rw [State.enterInit_done (by omega)]; trivial

theorem State.positionLegal_enterPageAfter {s : State} {pg : Fin 8} (h : s.panelSaid = true → s.pagesShown (pg.val + 1)) :
    (s.enterPageAfter pg).positionLegal := by
  by_cases hp : pg.val + 1 < 8
  · rw [State.enterPageAfter_more hp]; exact h
  · rw [State.enterPageAfter_last hp]; trivial

/-- The acknowledged data of page `pg` make the page pointer's page the framebuffer's (R22). -/
theorem State.pagesShown_takeData {s : State} {pg : Fin 8} (hs : s.pagesShown pg.val)
    (hp : s.controller.regs.pagePtr = pg) (hl : s.controller.regs.colLow = 0) (hh : s.controller.regs.colHigh = 0)
    (p : Fin 8) (hlt : p.val < pg.val + 1) : (s.controller.takeData true (s.slice pg)).page p = s.slice p := by
  rw [Controller.takeData_page (State.slice_length s _) hl hh, hp]
  split
  · subst_vars; rfl
  · rename_i hne
    exact hs p (by have := fun h => hne (Fin.ext h); omega)

/-- An acknowledged transaction at a page command leaves the panel and sets its pointer. -/
theorem State.positionLegal_afterPageCmd {s : State} {pg : Fin 8} {k : PageCmdKind} (hq : s.seq = .pageCmd pg k)
    (h : s.positionLegal) (rest : List BusAnswer) (p : List Byte) (b : Byte) :
    ((s.answered .ack rest p (s.controller.takeCommand s.panelSaid (some (pagePos pg k)) b)).afterPageCmd pg k).positionLegal := by
  cases k with
  | select =>
    simp only [State.positionLegal, hq] at h
    intro hs
    have hs : s.panelSaid = true := hs
    rw [hs]
    exact ⟨h hs, rfl⟩
  | colLow =>
    simp only [State.positionLegal, hq] at h
    intro hs
    have hs : s.panelSaid = true := hs
    obtain ⟨hpages, hptr⟩ := h hs
    rw [hs]
    exact ⟨hpages, hptr, rfl⟩
  | colHigh =>
    simp only [State.positionLegal, hq] at h
    refine ⟨rfl, fun hs => ?_⟩
    have hs : s.panelSaid = true := hs
    obtain ⟨hpages, hptr, hlow⟩ := h hs
    rw [hs]
    exact ⟨hpages, hptr, hlow, rfl⟩

/-- A bus transaction, answered or not, leads from a position of R14 to one of R14. -/
theorem State.positionLegal_busStep {s : State} (hq : s.seq.isBus) (h : s.positionLegal) : s.busStep.positionLegal := by
  have hr : ∀ is, s.seq = .initStep is → is < s.cfg.initSeq.length := fun is hs => by
    simp only [State.positionLegal, hs] at h; exact h.1
  cases ha : s.answers with
  | nil => rwa [State.busStep_waiting ha]
  | cons a rest =>
    cases a with
    | fault e => exact State.positionLegal_of_idle (State.busStep_fault ha hq hr).1
    | ack =>
      cases hs : s.seq with
      | initStep is =>
        have hb := List.getElem?_eq_getElem (hr is hs)
        rw [State.busStep_initStep_ack hs hb ha]
        simp only [State.positionLegal, hs] at h
        obtain ⟨-, ht, -⟩ := h
        refine State.positionLegal_enterInit ?_ (Controller.unsaid_forget s.controller)
        show s.controller.taken ++ [_] = s.cfg.initSeq.take (is + 1)
        rw [List.take_add_one, hb, ht]; rfl
      | pageCmd pg k =>
        rw [State.busStep_pageCmd_ack hs ha]
        exact State.positionLegal_afterPageCmd hs h ..
      | pageData pg =>
        rw [State.busStep_pageData_ack hs ha]
        simp only [State.positionLegal, hs] at h
        refine State.positionLegal_enterPageAfter fun hsaid => ?_
        have hsaid : s.panelSaid = true := hsaid
        obtain ⟨hpages, hptr, hlow, hhigh⟩ := h.2 hsaid
        rw [hsaid]
        exact State.pagesShown_takeData hpages hptr hlow hhigh
      | idle | settle | clearing _ | pixel | glyph _ _ | nextChar => rw [hs] at hq; exact hq.elim

theorem State.positionLegal_glyphDone (s : State) : s.glyphDone.positionLegal := by
  unfold State.glyphDone
  split
  · assumption
  · trivial

theorem State.positionLegal_glyphNext (s : State) (gi : Fin 5) (gj : Fin 8) : (s.glyphNext gi gj).positionLegal := by
  by_cases hj : gj.val + 1 < 8
  · rw [State.glyphNext_row hj]; trivial
  · by_cases hi : gi.val + 1 < 5
    · rw [State.glyphNext_column hj hi]; trivial
    · rw [State.glyphNext_done hj hi]; exact State.positionLegal_glyphDone s

/-- DRAW_STRING stays DRAW_STRING while it takes characters. -/
theorem State.positionLegal_takeChar {s : State} (hp : s.positionLegal) (h : s.latches.op = .drawString) :
    s.takeChar.positionLegal := by
  unfold State.takeChar
  split
  · exact hp
  · dsimp only
    split
    · trivial
    · split
      · trivial
      · exact h

theorem State.positionLegal_innerStep {s : State} (h : s.positionLegal) : s.innerStep.positionLegal := by
  cases hq : s.seq with
  | settle =>
    rw [State.innerStep_settle hq]
    simp only [State.positionLegal, hq] at h
    exact State.positionLegal_enterInit h.1 h.2
  | clearing ci =>
    rw [State.innerStep_clearing hq]
    by_cases hc : ci.val + 1 < 1024
    · rw [State.clearNext_more hc]; trivial
    · rw [State.clearNext_last hc]; trivial
  | pixel => rw [State.innerStep_pixel hq]; trivial
  | glyph gi gj => rw [State.innerStep_glyph hq]; exact State.positionLegal_glyphNext ..
  | nextChar =>
    rw [State.innerStep_nextChar hq]
    refine State.positionLegal_takeChar h ?_
    simpa only [State.positionLegal, hq] using h
  | idle | initStep _ | pageCmd _ _ | pageData _ => simp only [State.innerStep, hq]; exact h

/-! ## Legal states: every step keeps them -/

theorem State.Legal.busStep {s : State} (h : s.Legal) : s.busStep.Legal := by
  obtain ⟨hs, hp⟩ := State.legal_iff.1 h
  refine State.legal_iff.2 ⟨hs.busStep, ?_⟩
  by_cases hq : s.seq.isBus
  · exact State.positionLegal_busStep hq hp
  · cases hc : s.seq with
    | initStep _ | pageCmd _ _ | pageData _ => rw [hc] at hq; exact absurd trivial hq
    | idle | settle | clearing _ | pixel | glyph _ _ | nextChar => simp only [State.busStep, hc]; exact hp

theorem legal_runBus (n : Nat) {s : State} (h : s.Legal) : (runBus n s).Legal := by
  induction n generalizing s with
  | zero => exact h
  | succ n ih => exact ih h.busStep

theorem State.Legal.innerStep {s : State} (h : s.Legal) : s.innerStep.Legal :=
  have ⟨hs, hp⟩ := State.legal_iff.1 h
  State.legal_iff.2 ⟨hs.innerStep, State.positionLegal_innerStep hp⟩

theorem State.Sound.startInit {s : State} (h : s.Sound) : s.startInit.Legal := by
  have hu : ({ s.controller.forget with taken := [] } : Controller).unsaid := Controller.unsaid_forget s.controller
  have hs : State.Sound { s.loadOp .init with seq := .settle, controller := { s.controller.forget with taken := [] } } :=
    ⟨h.cfg, h.fb, fun _ => hu, h.trace, h.answers, h.completions⟩
  exact State.legal_iff.2 ⟨hs.enterInit 0, State.positionLegal_enterInit rfl hu⟩

theorem State.Sound.startUpdate {s : State} (h : s.Sound) : s.startUpdate.Legal :=
  State.legal_iff.2 ⟨h.move .., fun _ p hp => absurd hp (Nat.not_lt_zero p.val)⟩

theorem legal_drawText (t : List Byte) {s : State} (h : s.Sound) (hop : s.latches.op = .drawString) :
    (drawText t s).Legal := by
  induction t generalizing s with
  | nil => exact State.legal_iff.2 ⟨h.move .., hop⟩
  | cons b t ih =>
    by_cases hb : b = 0
    · subst hb; exact State.legal_iff.2 ⟨(h.move s.seq s.latches s.cmds t).complete_ok, trivial⟩
    · rw [drawText_cons hb]
      refine ih ((h.paint (drawChar_wf _ _ _ _ h.fb)).move ..) ?_
      rw [State.drawNext_latches, Latches.pastChar_op, hop]

/-- A row of the command word, run in a legal state, leaves a legal state. -/
theorem HostRow.keeps_legal {i : Instr} (hi : HostRow i) {s t : State} (h : s.Legal) (hx : exec i s = .next t) :
    t.Legal := by
  obtain ⟨hs, hp⟩ := State.legal_iff.1 h
  cases hi with
  | init => cases hx; exact legal_runBus _ hs.startInit
  | update => cases hx; exact legal_runBus _ hs.startUpdate
  | drawString x y on => cases hx; exact legal_drawText _ (hs.move ..) rfl
  | paint f hwf he =>
    rw [he] at hx; cases hx
    exact State.legal_iff.2 ⟨(hs.paint (hwf _ _ hs.fb)).complete_ok, trivial⟩
  | illegal he =>
    rw [he] at hx; cases hx
    exact State.legal_iff.2 ⟨hs.raiseIllegal, hp⟩

theorem State.Legal.accept {s : State} (h : s.Legal) (hq : s.seq = .idle) (c : HostCommand) (rest : List HostCommand) :
    (s.accept c rest).Legal :=
  State.legal_iff.2 ⟨(State.legal_iff.1 h).1.move .., State.positionLegal_of_idle hq⟩

/-- Settles O47: by the cases of a step, each of which keeps both halves of `State.Legal`. -/
theorem stepKeepsLegalStates : Obligations.StepKeepsLegalStates := by
  intro s t h hstep
  rcases step_cases hstep with ⟨-, -, rfl⟩ | ⟨c, rest, hq, -, hx⟩ | ⟨-, rfl⟩ | ⟨-, -, rfl⟩
  · exact h
  · exact (hostRow_decodeCmd c.word).keeps_legal (h.accept hq c rest) hx
  · exact h.busStep
  · exact h.innerStep

/-- Settles O49: a legal state stands at a position of R14, and no instruction's meaning stops. -/
theorem legalStatesAlwaysStep : Obligations.LegalStatesAlwaysStep := by
  intro s h
  by_cases hb : s.seq.isBus
  · refine ⟨_, step_bus hb fun is hs => ?_⟩
    have hp := h.position
    simp only [State.positionLegal, hs] at hp
    exact hp.1
  · by_cases hi : s.seq = .idle
    · cases hc : s.cmds with
      | nil => exact ⟨s, step_idle_waiting hi hc⟩
      | cons c rest => rw [step_idle_command hi hc]; exact exec_next ..
    · exact ⟨_, step_inner hi hb⟩

end Sys2Proof.Machine
end

section
namespace Sys2Proof.Machine

/-! ## The step of a bus position (R14, R99, R104) -/

theorem step_initStep {s : State} {is : Nat} {b : Byte} (hq : s.seq = .initStep is) (hb : s.cfg.initSeq[is]? = some b) :
    step s = exec (ctlInstr (.initEntry is) b) s := by
  simp only [step, State.fetch, hq, hb]

theorem step_pageCmd {s : State} {pg : Fin 8} {k : PageCmdKind} (hq : s.seq = .pageCmd pg k) :
    step s = exec (ctlInstr (pagePos pg k) (pageByte s.cfg pg k)) s := by
  simp only [step, State.fetch, hq]

theorem step_pageData {s : State} {pg : Fin 8} (hq : s.seq = .pageData pg) : step s = exec (.busData (s.slice pg)) s := by
  simp only [step, State.fetch, hq]

/-- Settles O5: the instruction of a position is the table's row exactly if the byte is that row's. -/
theorem stepRunsTheTransactionOfItsPosition : Obligations.StepRunsTheTransactionOfItsPosition := by
  refine fun s => ⟨?_, ?_, ?_, ?_, ?_, fun pg hq => step_pageData hq⟩
  · intro k i b hq hb hd
    rw [step_initStep hq hb, ctlInstr_of_decode (pos := .initEntry k) (b := b) hd]
  · intro k b hq hb hd
    rw [step_initStep hq hb, ctlInstr_of_not_decode (pos := .initEntry k) (b := b) hd]
  · intro pg hq
    have hbyte : s.cfg.pageBase + BitVec.ofNat 8 pg.val = pageSelectByte pg ↔ s.cfg.pageBase = 0xB0#8 :=
      BitVec.add_left_inj ..
    rw [step_pageCmd hq, pagePos, pageByte, ctlInstr_pageSelect, apply_ite (exec · s)]
    simp only [hbyte]
  · intro pg hq
    rw [step_pageCmd hq, pagePos, pageByte, ctlInstr_colLow, apply_ite (exec · s)]
  · intro pg hq
    rw [step_pageCmd hq, pagePos, pageByte, ctlInstr_colHigh, apply_ite (exec · s)]

/-! ## No step changes the configuration (R12, R19, R155) -/

theorem State.startInit_cfg (s : State) : s.startInit.cfg = s.cfg := (SameStores.enterInit _ 0).1

theorem HostRow.keeps_cfg {i : Instr} (hi : HostRow i) {s t : State} (hx : exec i s = .next t) : t.cfg = s.cfg := by
  cases hi with
  | init => cases hx; exact (SameStores.runBus _ _).1.trans s.startInit_cfg
  | update => cases hx; exact (SameStores.runBus _ _).1
  | drawString x y on => cases hx; exact (drawText_same _ _).1
  | paint f hwf he => rw [he] at hx; cases hx; rfl
  | illegal he => rw [he] at hx; cases hx; rfl

/-- Settles O41: by the cases of a step. -/
theorem stepNeverChangesTheConfiguration : Obligations.StepNeverChangesTheConfiguration := by
  intro s t hstep
  rcases step_cases hstep with ⟨-, -, rfl⟩ | ⟨c, rest, -, -, hx⟩ | ⟨-, rfl⟩ | ⟨-, -, rfl⟩
  · rfl
  · exact ((hostRow_decodeCmd c.word).keeps_cfg hx).trans (s.accept_cfg c rest)
  · exact (SameStores.busStep s).1
  · exact (SameBus.innerStep s).1

/-! ## `ctrl_state` is INIT's (R15) -/

/-- Outside INIT a transaction leaves `ctrl_state`, and does not lead into INIT. -/
theorem State.busStep_ctrl {s : State} (hq : ∀ is, s.seq ≠ .initStep is) :
    s.busStep.ctrl = s.ctrl ∧ ∀ is, s.busStep.seq ≠ .initStep is := by
  cases hs : s.seq with
  | initStep is => exact absurd hs (hq is)
  | pageCmd pg k =>
    cases ha : s.answers with
    | nil => rw [State.busStep_waiting ha]; exact ⟨rfl, hq⟩
    | cons a rest =>
      cases a with
      | ack => rw [State.busStep_pageCmd_ack hs ha]; cases k <;> exact ⟨rfl, fun _ h => nomatch h⟩
      | fault e =>
        rw [State.busStep_pageCmd hs, State.sendCommand_fault _ _ ha]
        cases k <;> exact ⟨rfl, fun _ h => nomatch h⟩
  | pageData pg =>
    cases ha : s.answers with
    | nil => rw [State.busStep_waiting ha]; exact ⟨rfl, hq⟩
    | cons a rest =>
      cases a with
      | ack =>
        rw [State.busStep_pageData_ack hs ha]
        by_cases hp : pg.val + 1 < 8
        · rw [State.enterPageAfter_more hp]; exact ⟨rfl, fun _ h => nomatch h⟩
        · rw [State.enterPageAfter_last hp]; exact ⟨rfl, fun _ h => nomatch h⟩
      | fault e =>
        rw [State.busStep_pageData hs, State.sendSlice_fault _ ha]
        exact ⟨rfl, fun _ h => nomatch h⟩
  | idle | settle | clearing _ | pixel | glyph _ _ | nextChar => simp only [State.busStep, hs]; simp

theorem runBus_ctrl (n : Nat) {s : State} (hq : ∀ is, s.seq ≠ .initStep is) : (runBus n s).ctrl = s.ctrl := by
  induction n generalizing s with
  | zero => rfl
  | succ n ih =>
    obtain ⟨hc, hq'⟩ := State.busStep_ctrl hq
    exact (ih hq').trans hc

theorem HostRow.keeps_ctrl {i : Instr} (hi : HostRow i) (hne : i ≠ .init) {s t : State} (hx : exec i s = .next t) :
    t.ctrl = s.ctrl := by
  cases hi with
  | init => exact absurd rfl hne
  | update => cases hx; exact runBus_ctrl _ (s := s.startUpdate) fun _ h => nomatch h
  | drawString x y on => cases hx; exact (drawText_same _ _).2.1
  | paint f hwf he => rw [he] at hx; cases hx; rfl
  | illegal he => rw [he] at hx; cases hx; rfl

theorem State.clearNext_ctrl (s : State) (ci : Fin 1024) : (s.clearNext ci).ctrl = s.ctrl := by
  by_cases h : ci.val + 1 < 1024
  · rw [State.clearNext_more h]
  · rw [State.clearNext_last h]; rfl

theorem State.glyphNext_ctrl (s : State) (gi : Fin 5) (gj : Fin 8) : (s.glyphNext gi gj).ctrl = s.ctrl := by
  by_cases hj : gj.val + 1 < 8
  · rw [State.glyphNext_row hj]
  · by_cases hi : gi.val + 1 < 5
    · rw [State.glyphNext_column hj hi]
    · rw [State.glyphNext_done hj hi, State.glyphDone]; split <;> rfl

theorem State.takeChar_ctrl (s : State) : s.takeChar.ctrl = s.ctrl := by
  unfold State.takeChar
  split
  · rfl
  · dsimp only
    split
    · rfl
    · split <;> rfl

/-- Of the sequencer's own moves only the end of the settling delay can reach `Ready`. -/
theorem State.innerStep_ctrl {s : State} (hne : s.seq ≠ .settle) : s.innerStep.ctrl = s.ctrl := by
  cases hq : s.seq with
  | settle => exact absurd hq hne
  | clearing ci => rw [State.innerStep_clearing hq, State.clearNext_ctrl]
  | pixel => rw [State.innerStep_pixel hq]; rfl
  | glyph gi gj => rw [State.innerStep_glyph hq, State.glyphNext_ctrl]; rfl
  | nextChar => rw [State.innerStep_nextChar hq, State.takeChar_ctrl]
  | idle | initStep _ | pageCmd _ _ | pageData _ => simp only [State.innerStep, hq]

/-- Settles O42: a step that is neither INIT's nor inside INIT keeps `ctrl_state`. -/
theorem onlyInitWritesControllerState : Obligations.OnlyInitWritesControllerState := by
  intro s t hstep hne
  rcases step_cases hstep with ⟨-, -, rfl⟩ | ⟨c, rest, hq, hc, hx⟩ | ⟨-, rfl⟩ | ⟨-, -, rfl⟩
  · exact absurd rfl hne
  · refine .inr (.inr ⟨hq, c, rest, hc, ?_⟩)
    by_contra hi
    exact hne (((hostRow_decodeCmd c.word).keeps_ctrl hi hx).trans (s.accept_ctrl c rest))
  · refine .inr (.inl ?_)
    by_contra hq
    exact hne (State.busStep_ctrl fun is h => hq ⟨is, h⟩).1
  · refine .inl ?_
    by_contra hq
    exact hne (State.innerStep_ctrl hq)

/-! ## Where nothing is said of the panel (R22, U11, U13) -/

theorem State.enterInit_controller (s : State) (is : Nat) : (s.enterInit is).controller = s.controller :=
  (SameBus.enterInit s is).2.2.2.2

theorem State.afterCommand_controller (s : State) : s.afterCommand.controller = s.controller := by
  unfold State.afterCommand
  split
  · exact State.enterInit_controller s _
  all_goals rfl

theorem State.enterPageAfter_controller (s : State) (pg : Fin 8) : (s.enterPageAfter pg).controller = s.controller := by
  unfold State.enterPageAfter; split <;> rfl

theorem State.afterData_controller (s : State) : s.afterData.controller = s.controller := by
  unfold State.afterData
  split
  · exact State.enterPageAfter_controller s _
  · rfl

theorem State.dropReady_controller (s : State) (pos : Option CtlPos) : (s.dropReady pos).controller = s.controller := by
  unfold State.dropReady; split <;> rfl

theorem State.sendCommand_unsaid {s : State} (hs : s.panelSaid = false) (ha : s.answers ≠ []) (pos : Option CtlPos)
    (b : Byte) : (s.sendCommand pos b).controller.unsaid := by
  match h : s.answers with
  | [] => exact absurd h ha
  | .ack :: rest =>
    rw [State.sendCommand_ack pos b h, State.afterCommand_controller, hs]
    exact Controller.takeCommand_unsaid pos b _
  | .fault e :: rest =>
    rw [State.sendCommand_fault pos b h, State.raiseBusFault_controller, State.dropReady_controller, hs]
    exact Controller.missCommand_unsaid pos _

theorem State.sendSlice_unsaid {s : State} (hs : s.panelSaid = false) (ha : s.answers ≠ []) (d : List Byte) :
    (s.sendSlice d).controller.unsaid := by
  match h : s.answers with
  | [] => exact absurd h ha
  | .ack :: rest =>
    rw [State.sendSlice_ack d h, State.afterData_controller, hs]
    exact Controller.takeData_unsaid d _
  | .fault e :: rest =>
    rw [State.sendSlice_fault d h, State.raiseBusFault_controller, hs]
    exact Controller.missData_unsaid _

theorem BusRow.unsaid {i : Instr} (hi : BusRow i) {s t : State} (hs : s.panelSaid = false) (ha : s.answers ≠ [])
    (hx : exec i s = .next t) : t.controller.unsaid := by
  cases hi with
  | command p b he => rw [he] at hx; cases hx; exact State.sendCommand_unsaid hs ha _ b
  | data d => cases hx; exact State.sendSlice_unsaid hs ha d

/-- Settles O51: each of these rows makes one transaction, which draws the controller's registers anew. -/
theorem nothingIsSaidOfThePanelOtherwise : Obligations.NothingIsSaidOfThePanelOtherwise := by
  intro i s t hs hx hi ha
  refine BusRow.unsaid ?_ hs ha hx
  rcases hi with ⟨b, rfl⟩ | ⟨d, rfl⟩ | ⟨pg, rfl⟩ | rfl | rfl | hi
  · exact .command ctlPosAt b fun _ => rfl
  · exact .data d
  · exact busRow_ctl (.pageSelect pg) fun _ => rfl
  · exact busRow_ctl .colLow fun _ => rfl
  · exact busRow_ctl .colHigh fun _ => rfl
  · exact busRow_initSeq hi

/-! ## What the block does not read: `ctrl_state` and the controller (R15, R107), and, idle, its working registers (R13) -/

/-- `u` is `s` but for `ctrl_state` and the controller, which are `s`'s too where `F` holds, and the working registers, which are
`s`'s too where `L` holds. -/
def Alike (F L : Prop) (s u : State) : Prop :=
  ∃ (c : CtrlState) (k : Controller) (l : Latches),
    u = { s with ctrl := c, controller := k, latches := l } ∧ (F → c = s.ctrl ∧ k = s.controller) ∧ (L → l = s.latches)

section
variable {F L : Prop} {s u : State}

theorem Alike.complete (h : Alike F L s u) (r : Completion) : Alike F L (s.complete r) (u.complete r) := by
  obtain ⟨c, k, l, rfl, hc, -⟩ := h
  exact ⟨c, k, Config.freeLatches s.draws, rfl, hc, fun _ => rfl⟩

theorem Alike.moveTo (h : Alike F L s u) (q : Seq) : Alike F L { s with seq := q } { u with seq := q } := by
  obtain ⟨c, k, l, rfl, hc, hl⟩ := h
  exact ⟨c, k, l, rfl, hc, hl⟩

theorem Alike.columnAtEnd (h : Alike F L s u) :
    Alike F L { s with latches := { s.latches with col := 127 } } { u with latches := { u.latches with col := 127 } } := by
  obtain ⟨c, k, l, rfl, hc, hl⟩ := h
  exact ⟨c, k, { l with col := 127 }, rfl, hc, fun h => by rw [hl h]⟩

theorem Alike.seq (h : Alike F L s u) : u.seq = s.seq := by obtain ⟨c, k, l, rfl, -, -⟩ := h; rfl

theorem Alike.answers (h : Alike F L s u) : u.answers = s.answers := by obtain ⟨c, k, l, rfl, -, -⟩ := h; rfl

theorem Alike.cfg (h : Alike F L s u) : u.cfg = s.cfg := by obtain ⟨c, k, l, rfl, -, -⟩ := h; rfl

theorem Alike.slice (h : Alike F L s u) (pg : Nat) : u.slice pg = s.slice pg := by
  obtain ⟨c, k, l, rfl, -, -⟩ := h; rfl

/-- A transaction, whatever the controller makes of it: `f` is what it does with the controller. -/
theorem Alike.answered (h : Alike F L s u) (a : BusAnswer) (rest : List BusAnswer) (p : List Byte)
    (f : Bool → Controller → Controller) :
    Alike F L (s.answered a rest p (f s.panelSaid s.controller)) (u.answered a rest p (f u.panelSaid u.controller)) := by
  obtain ⟨c, k, l, rfl, hc, hl⟩ := h
  refine ⟨c, _, l, rfl, fun h => ?_, hl⟩
  obtain ⟨rfl, rfl⟩ := hc h
  exact ⟨rfl, rfl⟩

theorem Alike.enterInit (h : Alike F L s u) (is : Nat) : Alike F L (s.enterInit is) (u.enterInit is) := by
  by_cases hi : is < s.cfg.initSeq.length
  · rw [State.enterInit_more hi, State.enterInit_more (by rwa [h.cfg])]
    exact h.moveTo _
  · rw [State.enterInit_done (by omega), State.enterInit_done (by rw [h.cfg]; omega)]
    refine Alike.complete ?_ .ok
    obtain ⟨c, k, l, rfl, hc, hl⟩ := h
    exact ⟨.ready, k, l, rfl, fun h => ⟨rfl, (hc h).2⟩, hl⟩

theorem Alike.enterPageAfter (h : Alike F L s u) (pg : Fin 8) : Alike F L (s.enterPageAfter pg) (u.enterPageAfter pg) := by
  by_cases hp : pg.val + 1 < 8
  · rw [State.enterPageAfter_more hp, State.enterPageAfter_more hp]; exact h.moveTo _
  · rw [State.enterPageAfter_last hp, State.enterPageAfter_last hp]; exact h.complete .ok

theorem Alike.enterPageData (h : Alike F L s u) (pg : Fin 8) : Alike F L (s.enterPageData pg) (u.enterPageData pg) :=
  (h.moveTo (.pageData pg)).columnAtEnd

theorem Alike.afterCommand (h : Alike F L s u) : Alike F L s.afterCommand u.afterCommand := by
  cases hq : s.seq with
  | initStep is => simp only [State.afterCommand, h.seq, hq]; exact h.enterInit _
  | pageCmd pg k =>
    cases k with
    | select | colLow => simp only [State.afterCommand, h.seq, hq]; exact h.moveTo _
    | colHigh => simp only [State.afterCommand, h.seq, hq]; exact h.enterPageData pg
  | idle | settle | clearing _ | pixel | glyph _ _ | nextChar | pageData _ =>
    simp only [State.afterCommand, h.seq, hq]; exact h

theorem Alike.afterData (h : Alike F L s u) : Alike F L s.afterData u.afterData := by
  cases hq : s.seq with
  | pageData pg => simp only [State.afterData, h.seq, hq]; exact h.enterPageAfter pg
  | idle | settle | clearing _ | pixel | glyph _ _ | nextChar | initStep _ | pageCmd _ _ =>
    simp only [State.afterData, h.seq, hq]; exact h

theorem Alike.dropReady (h : Alike F L s u) (pos : Option CtlPos) : Alike F L (s.dropReady pos) (u.dropReady pos) := by
  unfold State.dropReady
  split
  · obtain ⟨c, k, l, rfl, hc, hl⟩ := h
    exact ⟨.uninitialized, k, l, rfl, fun h => ⟨rfl, (hc h).2⟩, hl⟩
  · exact h

theorem Alike.sendCommand (h : Alike F L s u) (pos : Option CtlPos) (b : Byte) :
    Alike F L (s.sendCommand pos b) (u.sendCommand pos b) := by
  match ha : s.answers with
  | [] => rwa [State.sendCommand_waiting pos b ha, State.sendCommand_waiting pos b (h.answers.trans ha)]
  | .ack :: rest =>
    rw [State.sendCommand_ack pos b ha, State.sendCommand_ack pos b (h.answers.trans ha)]
    exact (h.answered .ack rest (cmdPayload b) fun said => Controller.takeCommand said pos b).afterCommand
  | .fault e :: rest =>
    rw [State.sendCommand_fault pos b ha, State.sendCommand_fault pos b (h.answers.trans ha)]
    exact ((h.answered (.fault e) rest (cmdPayload b) fun said => Controller.missCommand said pos).dropReady pos).complete _

theorem Alike.sendSlice (h : Alike F L s u) (d : List Byte) : Alike F L (s.sendSlice d) (u.sendSlice d) := by
  match ha : s.answers with
  | [] => rwa [State.sendSlice_waiting d ha, State.sendSlice_waiting d (h.answers.trans ha)]
  | .ack :: rest =>
    rw [State.sendSlice_ack d ha, State.sendSlice_ack d (h.answers.trans ha)]
    exact (h.answered .ack rest (dataPayload d) fun said => Controller.takeData said d).columnAtEnd.afterData
  | .fault e :: rest =>
    rw [State.sendSlice_fault d ha, State.sendSlice_fault d (h.answers.trans ha)]
    exact (h.answered (.fault e) rest (dataPayload d) Controller.missData).complete _

theorem Alike.busStep (h : Alike F L s u) : Alike F L s.busStep u.busStep := by
  cases hq : s.seq with
  | initStep is =>
    cases hb : s.cfg.initSeq[is]? with
    | none => simp only [State.busStep, h.seq, h.cfg, hq, hb]; exact h
    | some b => simp only [State.busStep, h.seq, h.cfg, hq, hb]; exact h.sendCommand ..
  | pageCmd pg k => simp only [State.busStep, h.seq, h.cfg, hq]; exact h.sendCommand ..
  | pageData pg => simp only [State.busStep, h.seq, h.slice, hq]; exact h.sendSlice _
  | idle | settle | clearing _ | pixel | glyph _ _ | nextChar => simp only [State.busStep, h.seq, hq]; exact h

theorem Alike.runBus (h : Alike F L s u) (n : Nat) : Alike F L (runBus n s) (runBus n u) := by
  induction n generalizing s u with
  | zero => exact h
  | succ n ih => exact ih h.busStep

theorem Alike.loadOp (h : Alike F L s u) (op : CmdOp) : Alike F L (s.loadOp op) (u.loadOp op) := by
  obtain ⟨c, k, l, rfl, hc, hl⟩ := h
  exact ⟨c, k, { l with op := op }, rfl, hc, fun h => by rw [hl h, State.loadOp_latches]⟩

theorem Alike.startInit (h : Alike F L s u) : Alike F L s.startInit u.startInit := by
  refine Alike.enterInit ?_ 0
  obtain ⟨c, k, l, rfl, hc, hl⟩ := h
  refine ⟨c, { k.forget with taken := [] }, { l with op := .init }, rfl, fun h => ?_, fun h => by rw [hl h]; rfl⟩
  obtain ⟨rfl, rfl⟩ := hc h
  exact ⟨rfl, rfl⟩

theorem Alike.startUpdate (h : Alike F L s u) : Alike F L s.startUpdate u.startUpdate :=
  (h.loadOp .update).moveTo (.pageCmd 0 .select)

theorem Alike.drawNext (h : Alike F L s u) (hcur : u.latches.cur = s.latches.cur) (hy : u.latches.oy = s.latches.oy)
    (hon : u.latches.oon = s.latches.oon) (b : Byte) : Alike F L (s.drawNext b) (u.drawNext b) := by
  obtain ⟨c, k, l, rfl, hc, hl⟩ := h
  refine ⟨c, k, Latches.pastChar b l, ?_, hc, fun h => by rw [hl h]; rfl⟩
  simp only at hcur hy hon
  simp only [State.drawNext, hcur, hy, hon]

/-- DRAW_STRING reads the cursor, the vertical origin and the color, which it has loaded itself. -/
theorem Alike.drawText (t : List Byte) (h : Alike F L s u) (hcur : u.latches.cur = s.latches.cur)
    (hy : u.latches.oy = s.latches.oy) (hon : u.latches.oon = s.latches.oon) :
    Alike F L (drawText t s) (drawText t u) := by
  induction t generalizing s u with
  | nil =>
    obtain ⟨c, k, l, rfl, hc, hl⟩ := h
    exact ⟨c, k, l, rfl, hc, hl⟩
  | cons b t ih =>
    by_cases hb : b = 0
    · subst hb
      rw [drawText_terminator, drawText_terminator]
      refine Alike.complete ?_ .ok
      obtain ⟨c, k, l, rfl, hc, hl⟩ := h
      exact ⟨c, k, l, rfl, hc, hl⟩
    · rw [drawText_cons hb, drawText_cons hb]
      refine ih (h.drawNext hcur hy hon b) ?_ ?_ ?_
      · simp only [State.drawNext_latches, Latches.pastChar_cur, hcur]
      · simp only [State.drawNext_latches, Latches.pastChar_oy, hy]
      · simp only [State.drawNext_latches, Latches.pastChar_oon, hon]

theorem Alike.startString (h : Alike F L s u) (x y : Int) (on : Bool) :
    Alike F L (s.startString x y on) (u.startString x y on) := by
  obtain ⟨c, k, l, rfl, hc, hl⟩ := h
  exact ⟨c, k, { l with op := .drawString, ox := x, oy := y, oon := on, cur := x }, rfl, hc, fun h => by rw [hl h]; rfl⟩

theorem Alike.paint (h : Alike F L s u) (f : Cfg → Memory → Memory) :
    Alike F L { s with fb := f s.cfg s.fb } { u with fb := f u.cfg u.fb } := by
  obtain ⟨c, k, l, rfl, hc, hl⟩ := h
  exact ⟨c, k, l, rfl, hc, hl⟩

theorem Alike.raiseIllegal (h : Alike F L s u) : Alike F L s.raiseIllegal u.raiseIllegal := by
  obtain ⟨c, k, l, rfl, hc, hl⟩ := h
  exact ⟨c, k, l, rfl, hc, hl⟩

theorem Alike.text (h : Alike F L s u) : u.text = s.text := by obtain ⟨c, k, l, rfl, -, -⟩ := h; rfl

theorem HostRow.alike {i : Instr} (hi : HostRow i) (h : Alike F L s u) :
    ∃ t v, exec i s = .next t ∧ exec i u = .next v ∧ Alike F L t v := by
  cases hi with
  | init => refine ⟨_, _, rfl, rfl, ?_⟩; rw [h.answers]; exact h.startInit.runBus _
  | update => refine ⟨_, _, rfl, rfl, ?_⟩; rw [h.answers]; exact h.startUpdate.runBus _
  | drawString x y on =>
    refine ⟨_, _, rfl, rfl, ?_⟩
    rw [h.text]
    exact (h.startString x y on).drawText s.text rfl rfl rfl
  | paint f _ he => exact ⟨_, _, he s, he u, (h.paint f).complete .ok⟩
  | illegal he => exact ⟨_, _, he s, he u, h.raiseIllegal⟩

theorem BusRow.alike {i : Instr} (hi : BusRow i) (h : Alike F L s u) :
    ∃ t v, exec i s = .next t ∧ exec i u = .next v ∧ Alike F L t v := by
  cases hi with
  | command p b he => refine ⟨_, _, he s, he u, ?_⟩; rw [h.seq]; exact h.sendCommand ..
  | data d => exact ⟨_, _, rfl, rfl, h.sendSlice d⟩

end

/-- Settles O45: every instruction takes states alike but for `ctrl_state` and the controller to such states. -/
theorem nothingInTheBlockReadsControllerState : Obligations.NothingInTheBlockReadsControllerState := by
  intro i s c
  have h : Alike False True s { s with ctrl := c } := ⟨c, s.controller, s.latches, rfl, fun h => h.elim, fun _ => rfl⟩
  obtain ⟨t, u, ht, hu, c', k, l, rfl, -, hl⟩ := (hostRow_or_busRow i).elim (·.alike h) (·.alike h)
  refine ⟨t, _, ht, hu, ?_⟩
  rw [hl trivial]

/-- Settles O46: the command an idle block takes loads every working register it reads. -/
theorem workingRegistersAreDeadWhileIdle : Obligations.WorkingRegistersAreDeadWhileIdle := by
  intro s l hq
  by_cases hc : s.cmds = []
  · exact ⟨s, { s with latches := l }, step_idle_waiting hq hc, step_idle_waiting (s := { s with latches := l }) hq hc, rfl⟩
  · obtain ⟨c, rest, hc⟩ := List.exists_cons_of_ne_nil hc
    have h : Alike True False (s.accept c rest) (State.accept c rest { s with latches := l }) :=
      ⟨s.ctrl, s.controller, l, rfl, fun _ => ⟨rfl, rfl⟩, fun h => h.elim⟩
    obtain ⟨t, u, ht, hu, c', k, l', rfl, hf, -⟩ := (hostRow_decodeCmd c.word).alike h
    obtain ⟨rfl, rfl⟩ := hf trivial
    exact ⟨t, _, (step_idle_command hq hc).trans ht, (step_idle_command (s := { s with latches := l }) hq hc).trans hu, rfl⟩

end Sys2Proof.Machine
end

section
namespace Sys2Proof.Machine

/-! ## The sequencer's moves, run to the end of a command (R14) -/

theorem core_run_zero (s : State) : core.run 0 s = .next s := rfl

theorem core_run_clearing_move {s : State} {ci : Fin 1024} (hq : s.seq = .clearing ci) (n : Nat) :
    core.run (n + 1) s = core.run n (s.clearNext ci) :=
  core_run_succ (by simp only [step, State.fetch, State.innerStep, hq]) n

theorem core_run_pixel_move {s : State} (hq : s.seq = .pixel) (n : Nat) :
    core.run (n + 1) s = core.run n ((s.setPixel s.latches.ox s.latches.oy s.latches.oon).complete .ok) :=
  core_run_succ (by simp only [step, State.fetch, State.innerStep, hq]) n

theorem core_run_glyph_move {s : State} {gi : Fin 5} {gj : Fin 8} (hq : s.seq = .glyph gi gj) (n : Nat) :
    core.run (n + 1) s = core.run n ((s.glyphPixel gi gj).glyphNext gi gj) :=
  core_run_succ (by simp only [step, State.fetch, State.innerStep, hq]) n

theorem core_run_nextChar_move {s : State} (hq : s.seq = .nextChar) (n : Nat) :
    core.run (n + 1) s = core.run n s.takeChar :=
  core_run_succ (by simp only [step, State.fetch, State.innerStep, hq]) n

/-! ### INIT and UPDATE: transaction by transaction -/

/-- The positions of INIT and UPDATE, and the one both end at. -/
def State.inBusCommand (s : State) : Prop :=
  match s.seq with
  | .idle => True
  | .initStep is => is < s.cfg.initSeq.length
  | .pageCmd _ _ => True
  | .pageData _ => True
  | _ => False

theorem State.inBusCommand_of_idle {s : State} (h : s.seq = .idle) : s.inBusCommand := by
  simp only [State.inBusCommand, h]

theorem State.inBusCommand_enterInit (s : State) (is : Nat) : (s.enterInit is).inBusCommand := by
  by_cases h : is < s.cfg.initSeq.length
  · rw [State.enterInit_more h]; exact h
  · rw [State.enterInit_done (by omega)]; trivial

theorem State.inBusCommand_enterPageAfter (s : State) (pg : Fin 8) : (s.enterPageAfter pg).inBusCommand := by
  by_cases h : pg.val + 1 < 8
  · rw [State.enterPageAfter_more h]; trivial
  · rw [State.enterPageAfter_last h]; trivial

theorem State.inBusCommand.step {s : State} (h : s.inBusCommand) (hne : s.seq ≠ .idle) :
    Machine.step s = .next s.busStep ∧ s.busStep.inBusCommand := by
  have hb : s.seq.isBus := by
    cases hs : s.seq with
    | idle => exact absurd hs hne
    | initStep _ | pageCmd _ _ | pageData _ => trivial
    | settle | clearing _ | pixel | glyph _ _ | nextChar => simp only [State.inBusCommand, hs] at h
  have hr : ∀ is, s.seq = .initStep is → is < s.cfg.initSeq.length := fun is hs => by
    simpa only [State.inBusCommand, hs] using h
  refine ⟨step_bus hb hr, ?_⟩
  match ha : s.answers with
  | [] => rwa [State.busStep_waiting ha]
  | .fault e :: rest => exact State.inBusCommand_of_idle (State.busStep_fault ha hb hr).1
  | .ack :: rest =>
    cases hs : s.seq with
    | initStep is =>
      rw [State.busStep_initStep_ack hs (List.getElem?_eq_getElem (hr is hs)) ha]
      exact State.inBusCommand_enterInit ..
    | pageCmd pg k => rw [State.busStep_pageCmd_ack hs ha]; cases k <;> trivial
    | pageData pg => rw [State.busStep_pageData_ack hs ha]; exact State.inBusCommand_enterPageAfter ..
    | idle | settle | clearing _ | pixel | glyph _ _ | nextChar => rw [hs] at hb; exact hb.elim

/-- A run of transactions is a run of steps: as many as are made before the command ends. -/
theorem exists_core_run_eq_runBus (n : Nat) {s : State} (h : s.inBusCommand) :
    ∃ m, core.run m s = .next (runBus n s) := by
  induction n generalizing s with
  | zero => exact ⟨0, rfl⟩
  | succ n ih =>
    by_cases hq : s.seq = .idle
    · exact ⟨0, by rw [runBus_idle _ hq]; rfl⟩
    · obtain ⟨hstep, hnext⟩ := h.step hq
      obtain ⟨m, hm⟩ := ih hnext
      exact ⟨m + 1, (core_run_succ hstep m).trans hm⟩

/-! ### CLEAR: byte by byte (R71) -/

/-- CLEAR's loop after its first `n` writes. -/
def clearedTo (c : Cfg) (m : Memory) (n : Nat) : Memory := (List.range n).foldl (fun m ci => m.write c ci 0) m

theorem clearedTo_succ (c : Cfg) (m : Memory) (n : Nat) : clearedTo c m (n + 1) = (clearedTo c m n).write c n 0 := by
  rw [clearedTo, List.range_succ, List.foldl_append]; rfl

theorem clearFb_eq_clearedTo (c : Cfg) (m : Memory) : clearFb c m = clearedTo c m 1024 := by
  rw [clearFb, clearedTo]

/-- The moves of CLEAR from byte `k` on, and its end. -/
theorem core_run_clearing (n : Nat) {k : Nat} (hk : k < 1024) (hn : k + (n + 1) = 1024) (s : State) :
    core.run (n + 1) { s with fb := clearedTo s.cfg s.fb k, seq := .clearing ⟨k, hk⟩ } =
      .next (State.complete .ok { s with fb := clearFb s.cfg s.fb }) := by
  induction n generalizing k with
  | zero =>
    have hlast : ¬ k + 1 < 1024 := by omega
    have hfb : clearFb s.cfg s.fb = (clearedTo s.cfg s.fb k).write s.cfg k 0 := by
      rw [clearFb_eq_clearedTo, ← clearedTo_succ, ← hn]
    rw [core_run_clearing_move rfl, State.clearNext_last hlast, core_run_zero, hfb]
    rfl
  | succ n ih =>
    have hmore : k + 1 < 1024 := by omega
    rw [core_run_clearing_move rfl, State.clearNext_more hmore, ← ih hmore (by omega),
      clearedTo_succ]

/-! ### A glyph: pixel by pixel (R84) -/

/-- Where the glyph of the current character stands horizontally. -/
def State.glyphX (s : State) : Int := if s.latches.op = .drawString then s.latches.cur else s.latches.ox

/-- Column `i` of the current character after its first `j` rows. -/
def State.glyphRows (s : State) (i j : Nat) (m : Memory) : Memory :=
  (List.range j).foldl (fun m (r : Nat) =>
    Machine.setPixel s.cfg (s.glyphX + i) (s.latches.oy + r) (glyphColor (romRead s.cfg s.latches.oc i) r s.latches.oon) m) m

theorem State.glyphRows_succ (s : State) (i j : Nat) (m : Memory) :
    s.glyphRows i (j + 1) m =
      Machine.setPixel s.cfg (s.glyphX + i) (s.latches.oy + j) (glyphColor (romRead s.cfg s.latches.oc i) j s.latches.oon)
        (s.glyphRows i j m) := by
  rw [State.glyphRows, List.range_succ, List.foldl_append]; rfl

/-- The current character after its first `i` columns. -/
def State.glyphColumns (s : State) (i : Nat) (m : Memory) : Memory := (List.range i).foldl (fun m i => s.glyphRows i 8 m) m

theorem State.glyphColumns_succ (s : State) (i : Nat) (m : Memory) :
    s.glyphColumns (i + 1) m = s.glyphRows i 8 (s.glyphColumns i m) := by
  rw [State.glyphColumns, List.range_succ, List.foldl_append]; rfl

/-- All five columns are the drawn character. -/
theorem State.glyphColumns_five {s : State} (h : hasGlyph s.latches.oc) (m : Memory) :
    s.glyphColumns 5 m = drawChar s.cfg s.glyphX s.latches.oy s.latches.oc s.latches.oon m := by
  rw [drawChar, if_pos h]; rfl

/-- The moves of one column from row `j` on, and the end of the column. -/
theorem core_run_glyph_rows (n : Nat) {j : Nat} (hj : j < 8) (hn : j + n = 7) (gi : Fin 5) (m : Memory) (r : Nat)
    (s : State) :
    core.run (n + 1 + r) { s with fb := s.glyphRows gi j m, seq := .glyph gi ⟨j, hj⟩ } =
      core.run r (State.glyphNext gi 7 { s with fb := s.glyphRows gi 8 m, seq := .glyph gi 7 }) := by
  induction n generalizing j with
  | zero =>
    obtain rfl : j = 7 := by omega
    rw [Nat.zero_add, Nat.add_comm, core_run_glyph_move rfl, State.glyphRows_succ]
    rfl
  | succ n ih =>
    have hmore : j + 1 < 8 := by omega
    rw [show n + 1 + 1 + r = n + 1 + r + 1 by omega, core_run_glyph_move rfl,
      State.glyphNext_row hmore, ← ih hmore (by omega), State.glyphRows_succ]
    rfl

/-- The moves of a glyph from column `i` on, and the end of the glyph. -/
theorem core_run_glyph_columns (n : Nat) {i : Nat} (hi : i < 5) (hn : i + n = 4) (m : Memory) (r : Nat) (s : State) :
    core.run (8 * (n + 1) + r) { s with fb := s.glyphColumns i m, seq := .glyph ⟨i, hi⟩ 0 } =
      core.run r (State.glyphDone { s with fb := s.glyphColumns 5 m, seq := .glyph 4 7 }) := by
  have hcol := core_run_glyph_rows 7 (j := 0) (by omega) rfl ⟨i, hi⟩ (s.glyphColumns i m) (8 * n + r) s
  rw [← State.glyphColumns_succ] at hcol
  rw [show 8 * (n + 1) + r = 7 + 1 + (8 * n + r) by omega]
  refine hcol.trans ?_
  cases n with
  | zero =>
    obtain rfl : i = 4 := by omega
    rw [State.glyphNext_done (by decide) (Nat.lt_irrefl 5), Nat.mul_zero, Nat.zero_add]
    rfl
  | succ n =>
    have hmore : i + 1 < 5 := by omega
    rw [State.glyphNext_column (by decide) hmore]
    exact core_run_glyph_columns n hmore (by omega) m r s

/-- The 40 moves of a glyph draw the character and end it. -/
theorem core_run_glyph {s : State} (h : hasGlyph s.latches.oc) (r : Nat) :
    core.run (40 + r) { s with seq := .glyph 0 0 } =
      core.run r (State.glyphDone
        { s with
          fb := drawChar s.cfg s.glyphX s.latches.oy s.latches.oc s.latches.oon s.fb, seq := .glyph 4 7 }) := by
  rw [← State.glyphColumns_five h]
  exact core_run_glyph_columns 4 (i := 0) (by omega) rfl s.fb r s

/-! ### DRAW_STRING: character by character (R88) -/

/-- At `NextChar` with a character of the text: in one move, or in 41 where it has a glyph, it is drawn. -/
theorem core_run_nextChar {s : State} (hop : s.latches.op = .drawString) {b : Byte} (hb : b ≠ 0) (rest : List Byte) :
    ∃ k, ∀ r, core.run (k + r) { s with text := b :: rest, seq := .nextChar } =
      core.run r { s.drawNext b with text := rest, seq := .nextChar } := by
  by_cases hg : hasGlyph b
  · refine ⟨41, fun r => ?_⟩
    rw [show 41 + r = 40 + r + 1 by omega, core_run_nextChar_move rfl]
    simp only [State.takeChar, if_neg hb, if_pos hg]
    refine (core_run_glyph (s := { s with
      text := rest, latches := { s.latches with oc := b }, seq := .nextChar }) hg r).trans ?_
    refine congrArg (core.run r) (show @Eq State _ _ from ?_)
    simp only [State.glyphDone, State.glyphX, hop, if_true, State.advanceCursor, State.drawNext, Latches.pastChar, if_pos hg]
  · refine ⟨1, fun r => ?_⟩
    rw [Nat.add_comm, core_run_nextChar_move rfl]
    simp only [State.takeChar, if_neg hb, if_neg hg, State.advanceCursor, State.drawNext, Latches.pastChar,
      drawChar_noGlyph _ _ _ hg]

/-- The moves of DRAW_STRING over the text `t`. -/
theorem exists_core_run_eq_drawText (t : List Byte) {s : State} (hop : s.latches.op = .drawString) :
    ∃ n, core.run n { s with text := t, seq := .nextChar } = .next (drawText t s) := by
  induction t generalizing s with
  | nil => exact ⟨0, rfl⟩
  | cons b t ih =>
    by_cases hb : b = 0
    · subst hb
      exact ⟨1, by rw [core_run_nextChar_move rfl]; rfl⟩
    · obtain ⟨k, hk⟩ := core_run_nextChar hop hb t
      obtain ⟨n, hn⟩ := ih (s := s.drawNext b) (by rw [State.drawNext_latches, Latches.pastChar_op, hop])
      exact ⟨k + n, by rw [hk, hn, drawText_cons hb]⟩

/-- Settles O50: the loops of CLEAR, of a glyph and of a text, and the run of INIT's and UPDATE's transactions, each taken one
move at a time. -/
theorem sequencerMovesMakeTheAtomicCommands : Obligations.SequencerMovesMakeTheAtomicCommands := by
  intro s
  refine ⟨?_, fun x y on => ?_, fun x y ch on h1 h2 => ?_, ?_, ?_, fun x y on => ?_⟩
  · rw [exec_clear]
    exact core_run_clearing 1023 (k := 0) (by omega) rfl s
  · rw [core_run_pixel_move rfl, exec_drawPixel]
    rfl
  · rw [exec_drawChar]
    exact core_run_glyph
      (s := { s with latches := { s.latches with op := .drawChar, ox := x, oy := y, oc := ch, oon := on } }) ⟨h1, h2⟩ 0
  · exact exists_core_run_eq_runBus _ (State.inBusCommand_enterInit _ 0)
  · exact exists_core_run_eq_runBus _ (s := s.startUpdate) trivial
  · exact exists_core_run_eq_drawText s.text (s := s.startString x y on) rfl

end Sys2Proof.Machine
end

section
namespace Sys2Proof.Machine

/-! ## The panel under one transaction of UPDATE (R22, R124) -/

theorem SameStores.slice {s t : State} (h : SameStores s t) (pg : Nat) : t.slice pg = s.slice pg := by
  obtain ⟨hcfg, hfb, -, -⟩ := h
  rw [State.slice, State.slice, hcfg, hfb]

section
variable {t : State} {pg : Fin 8} (hsaid : t.panelSaid = true)
include hsaid

/-- At a command of page `pg` the pages before it show the framebuffer's. -/
theorem State.shown_at_pageCmd {k : PageCmdKind} (hq : t.seq = .pageCmd pg k) (hpos : t.positionLegal) :
    t.pagesShown pg.val := by
  cases k with
  | select => simp only [State.positionLegal, hq] at hpos; exact hpos hsaid
  | colLow | colHigh => simp only [State.positionLegal, hq] at hpos; exact (hpos hsaid).1

/-- A page command, whatever the answer, leaves the panel. -/
theorem State.busStep_pageCmd_page {k : PageCmdKind} (hq : t.seq = .pageCmd pg k) (p : Fin 8) :
    t.busStep.controller.page p = t.controller.page p := by
  match ha : t.answers with
  | [] => rw [State.busStep_waiting ha]
  | .ack :: rest => rw [State.busStep_pageCmd_ack hq ha, hsaid]; cases k <;> rfl
  | .fault e :: rest => rw [State.busStep_pageCmd hq, State.sendCommand_fault _ _ ha, hsaid]; cases k <;> rfl

section
variable (hq : t.seq = .pageData pg) (hpos : t.positionLegal)
include hq hpos

/-- At a data position the pages before it show the framebuffer's, and the pointers are that page's (R21, R104). -/
theorem State.shown_and_pointers_at_pageData :
    t.pagesShown pg.val ∧ t.controller.regs.pagePtr = pg ∧ t.controller.regs.colLow = 0 ∧ t.controller.regs.colHigh = 0 := by
  simp only [State.positionLegal, hq] at hpos
  exact hpos.2 hsaid

/-- A data transaction, whatever the answer, leaves every other page. -/
theorem State.busStep_pageData_other_page {p : Fin 8} (hp : p ≠ pg) :
    t.busStep.controller.page p = t.controller.page p := by
  obtain ⟨-, hptr, hlow, hhigh⟩ := State.shown_and_pointers_at_pageData hsaid hq hpos
  have hp : p ≠ t.controller.regs.pagePtr := hptr ▸ hp
  match ha : t.answers with
  | [] => rw [State.busStep_waiting ha]
  | .ack :: rest =>
    rw [State.busStep_pageData_ack hq ha, State.enterPageAfter_controller, hsaid]
    exact (Controller.takeData_page (State.slice_length t _) hlow hhigh p).trans (if_neg hp)
  | .fault e :: rest =>
    rw [State.busStep_pageData hq, State.sendSlice_fault _ ha, State.raiseBusFault_controller, hsaid]
    exact (Controller.setPage_page _ hlow hhigh p).trans (if_neg hp)

/-- Acknowledged data: this page and the ones before it show the framebuffer. -/
theorem State.busStep_pageData_shown {rest : List BusAnswer} (ha : t.answers = .ack :: rest) {p : Fin 8}
    (hp : p.val < pg.val + 1) : t.busStep.controller.page p = t.slice p := by
  obtain ⟨hshown, hptr, hlow, hhigh⟩ := State.shown_and_pointers_at_pageData hsaid hq hpos
  rw [State.busStep_pageData_ack hq ha, State.enterPageAfter_controller, hsaid]
  exact State.pagesShown_takeData hshown hptr hlow hhigh p hp

/-- Faulted data: this page holds a free value. -/
theorem State.busStep_pageData_free {e : FaultInfo} {rest : List BusAnswer} (ha : t.answers = .fault e :: rest) :
    ∃ v, t.busStep.controller.regs.panel[pg.val] = (Config.freeController v).panel[pg.val] := by
  obtain ⟨-, rfl, hlow, hhigh⟩ := State.shown_and_pointers_at_pageData hsaid hq hpos
  refine ⟨t.controller.draws, ?_⟩
  rw [State.busStep_pageData hq, State.sendSlice_fault _ ha, State.raiseBusFault_controller, hsaid]
  simp only [Controller.missData, Controller.setPage, hlow, hhigh, and_self, if_true, Vector.getElem_set_self]

end
end

/-! ## UPDATE from `Ready`, transaction by transaction -/

/-- The page that transaction `n` of UPDATE belongs to. -/
def updatePage {n : Nat} (hn : n < 32) : Fin 8 := ⟨n / 4, by omega⟩

/-- Transaction `n` is a command of its page, or, the fourth one, its data (R104). -/
theorem updatePos_cases {n : Nat} (hn : n < 32) :
    (n % 4 ≠ 3 ∧ ∃ k, updatePos n = .pageCmd (updatePage hn) k) ∨
      (n % 4 = 3 ∧ updatePos n = .pageData (updatePage hn)) := by
  have hpg : Fin.ofNat 8 (n / 4) = updatePage hn := Fin.ext (Nat.mod_eq_of_lt (show n / 4 < 8 by omega))
  unfold updatePos
  rw [hpg]
  split
  · exact .inl ⟨by omega, _, rfl⟩
  · exact .inl ⟨by omega, _, rfl⟩
  · exact .inl ⟨by omega, _, rfl⟩
  · next h0 h1 h2 =>
    have h : ¬ (n % 4 = 0 ∨ n % 4 = 1 ∨ n % 4 = 2) := by rintro (h | h | h); exacts [h0 h, h1 h, h2 h]
    exact .inr ⟨by omega, rfl⟩

/-- UPDATE, started in `s`, is about to send transaction `n` in `t`: the pages from that transaction's on are as they were. -/
structure UpdateAt (s : State) (n : Nat) (t : State) : Prop where
  stores : SameStores s t
  ctrl : t.ctrl = s.ctrl
  completions : t.completions = s.completions
  seq : t.seq = updatePos n
  position : t.positionLegal
  stale : ∀ p : Fin 8, n / 4 ≤ p.val → t.controller.page p = s.controller.page p

theorem updateAt_startUpdate (s : State) : UpdateAt s 0 s.startUpdate where
  stores := SameStores.refl s
  ctrl := rfl
  completions := rfl
  seq := rfl
  position := fun _ p hp => absurd hp (Nat.not_lt_zero p.val)
  stale := fun _ _ => rfl

section
variable {s t : State} {n : Nat}

theorem UpdateAt.panelSaid (h : UpdateAt s n t) (hs : s.panelSaid = true) : t.panelSaid = true := by
  rw [State.panelSaid, h.ctrl, h.stores.1]; exact hs

/-- The pages before transaction `n`'s show the framebuffer's. -/
theorem UpdateAt.shown (h : UpdateAt s n t) (hs : s.panelSaid = true) (hn : n < 32) : t.pagesShown (n / 4) := by
  rcases updatePos_cases hn with ⟨-, k, hq⟩ | ⟨-, hq⟩
  · exact State.shown_at_pageCmd (h.panelSaid hs) (h.seq.trans hq) h.position
  · exact (State.shown_and_pointers_at_pageData (h.panelSaid hs) (h.seq.trans hq) h.position).1

/-- At an UPDATE position the next step is a transaction. -/
theorem UpdateAt.isBus (h : UpdateAt s n t) (hn : n < 32) : t.seq.isBus ∧ ∀ is, t.seq ≠ .initStep is := by
  rcases updatePos_cases hn with ⟨-, k, hq⟩ | ⟨-, hq⟩
  · rw [h.seq, hq]; exact ⟨trivial, nofun⟩
  · rw [h.seq, hq]; exact ⟨trivial, nofun⟩

/-- A page that is not transaction `n`'s is left by it. -/
theorem UpdateAt.other_page (h : UpdateAt s n t) (hs : s.panelSaid = true) (hn : n < 32) {p : Fin 8}
    (hp : p.val ≠ n / 4 ∨ n % 4 ≠ 3) : t.busStep.controller.page p = t.controller.page p := by
  rcases updatePos_cases hn with ⟨-, k, hq⟩ | ⟨hr, hq⟩
  · exact State.busStep_pageCmd_page (h.panelSaid hs) (h.seq.trans hq) p
  · refine State.busStep_pageData_other_page (h.panelSaid hs) (h.seq.trans hq) h.position fun hpg => ?_
    exact hp.elim (fun hne => hne (congrArg Fin.val hpg)) fun hne => hne hr

/-- Transaction `n`, acknowledged and not the last: UPDATE is about to send the next one. -/
theorem UpdateAt.busStep (h : UpdateAt s n t) (hs : s.panelSaid = true) (hn : n < 31) {rest : List BusAnswer}
    (ha : t.answers = .ack :: rest) : UpdateAt s (n + 1) t.busStep ∧ t.busStep.answers = rest := by
  have hpage : ∀ p : Fin 8, (n + 1) / 4 ≤ p.val → t.busStep.controller.page p = s.controller.page p := fun p hp =>
    (h.other_page hs (by omega) (by omega)).trans (h.stale p (by omega))
  have hstores := h.stores.trans (SameStores.busStep t)
  have hpos := State.positionLegal_busStep (h.isBus (by omega)).1 h.position
  obtain ⟨l, k, heq⟩ := busStep_update_ack t hn rest t.latches t.controller t.trace
  rw [← ha, ← h.seq] at heq
  have heq : t.busStep = _ := heq
  rw [heq] at hpage hstores hpos ⊢
  exact ⟨⟨hstores, h.ctrl, h.completions, rfl, hpos, hpage⟩, rfl⟩

end

/-- UPDATE over its first `n` transactions, acknowledged and not all. -/
theorem exists_updateAt {s : State} (hs : s.panelSaid = true) (n : Nat) (hn : n < 32) (m : Nat) {rest : List BusAnswer}
    (ha : s.answers = acks n ++ rest) :
    ∃ t, UpdateAt s n t ∧ t.answers = rest ∧ runBus (n + m) s.startUpdate = runBus m t := by
  induction n generalizing m rest with
  | zero => exact ⟨_, updateAt_startUpdate s, ha, by rw [Nat.zero_add]⟩
  | succ n ih =>
    have ha' : s.answers = acks n ++ .ack :: rest := by
      rw [ha, acks, List.replicate_succ', List.append_assoc]; rfl
    obtain ⟨t, ht, hta, hrun⟩ := ih (by omega) (m + 1) ha'
    obtain ⟨ht', hta'⟩ := ht.busStep hs (by omega) hta
    exact ⟨t.busStep, ht', hta', by rw [show n + 1 + m = n + (m + 1) by omega, hrun]; rfl⟩

/-- UPDATE whose transaction `n` ends it: the whole command is that transaction, made after the first `n`. -/
theorem exec_update_of_last {s : State} (hs : s.panelSaid = true) {n : Nat} (hn : n < 32) {a : BusAnswer}
    {rest : List BusAnswer} (ha : s.answers = acks n ++ a :: rest)
    (hlast : ∀ t, UpdateAt s n t → t.answers = a :: rest → t.busStep.seq = .idle) :
    ∃ t, UpdateAt s n t ∧ t.answers = a :: rest ∧ exec .update s = .next t.busStep := by
  obtain ⟨t, ht, hta, hrun⟩ := exists_updateAt hs n hn (rest.length + 1) ha
  refine ⟨t, ht, hta, congrArg Host.Outcome.next ?_⟩
  have hlen : s.answers.length = n + (rest.length + 1) := by
    rw [ha, List.length_append, acks, List.length_replicate, List.length_cons]
  rw [hlen, hrun, runBus, runBus_idle _ (hlast t ht hta)]

/-- A page that shows the framebuffer's does so byte by byte (R22, R32). -/
theorem panelByte_eq_of_page {s : State} (h : ∀ p : Fin 8, s.controller.page p = s.slice p.val) (a : Fin 1024) :
    s.controller.panelByte a = s.fbByte a.val := by
  have hb := congrArg (·[a.val % 128]?) (h ⟨a.val / 128, by omega⟩)
  have hlt : a.val % 128 < 128 := Nat.mod_lt _ (by decide)
  simp only [Controller.page, State.slice, Memory.slice, List.getElem?_map, List.getElem?_range hlt, Option.map_some,
    Vector.getElem?_toList, Vector.getElem?_eq_getElem hlt, Option.some.injEq] at hb
  rw [Controller.panelByte, hb, State.fbByte, Nat.div_add_mod']

/-- Settles O37: by the transactions in order; the last one ends UPDATE with all eight pages shown. -/
theorem acknowledgedUpdateMakesThePanelTheFramebuffer : Obligations.AcknowledgedUpdateMakesThePanelTheFramebuffer := by
  intro rest s hs ha
  have hdone : ∀ t, UpdateAt s 31 t → t.answers = .ack :: rest →
      t.busStep.seq = .idle ∧ t.busStep.completions = t.completions ++ [.ok] := fun t ht hta => by
    rw [State.busStep_pageData_ack (pg := 7) ht.seq hta, State.enterPageAfter_last (by decide)]
    exact ⟨rfl, rfl⟩
  obtain ⟨t, ht, hta, hx⟩ := exec_update_of_last (n := 31) hs (by decide) ha fun t ht hta => (hdone t ht hta).1
  have hpages : ∀ p : Fin 8, t.busStep.controller.page p = t.busStep.slice p.val := fun p => by
    rw [(SameStores.busStep t).slice]
    exact State.busStep_pageData_shown (ht.panelSaid hs) (pg := 7) ht.seq ht.position hta p.isLt
  exact ⟨t.busStep, hx, by rw [(hdone t ht hta).2, ht.completions], hpages, panelByte_eq_of_page hpages⟩

/-- Settles O38: the transactions before the faulted one leave its page and the later ones, and it leaves every page but its
own. -/
theorem faultedUpdateLeavesLaterPagesStale : Obligations.FaultedUpdateLeavesLaterPagesStale := by
  intro n e rest s hs hn ha
  have hlast : ∀ t, UpdateAt s n t → t.answers = .fault e :: rest →
      t.busStep.seq = .idle ∧ t.busStep.completions = t.completions ++ [.busFault e] := fun t ht hta =>
    have ⟨hbus, hinit⟩ := ht.isBus hn
    State.busStep_fault hta hbus fun is h => absurd h (hinit is)
  obtain ⟨t, ht, hta, hx⟩ := exec_update_of_last hs hn ha fun t ht hta => (hlast t ht hta).1
  refine ⟨t.busStep, hx, by rw [(hlast t ht hta).2, ht.completions], fun p => ⟨?_, ?_, ?_, ?_⟩⟩
  · intro hp
    rw [ht.other_page hs hn (.inl (by omega)), ht.shown hs hn p hp, ht.stores.slice]
  · intro hp hr
    obtain rfl : p = updatePage hn := Fin.ext hp
    rcases updatePos_cases hn with ⟨hne, -⟩ | ⟨-, hq⟩
    · exact absurd hr hne
    · exact State.busStep_pageData_free (ht.panelSaid hs) (ht.seq.trans hq) ht.position hta
  · intro hp hr
    rw [ht.other_page hs hn (.inr hr), ht.stale p (by omega)]
  · intro hp
    rw [ht.other_page hs hn (.inl (by omega)), ht.stale p (by omega)]

end Sys2Proof.Machine
end

section
/-! # Proofs for `20_memory.md`

The pixel map and its inverse (R30), and the histories, to which a step only adds (R38). -/

namespace Sys2Proof.Machine

/-! ## The pixel map and its inverse (R30) -/

section
variable {x b : Nat}

theorem pixelAddr_mod_width (hx : x < 128) (y : Nat) : pixelAddr x y % 128 = x := by
  rw [pixelAddr, Nat.add_mul_mod_self_right, Nat.mod_eq_of_lt hx]

theorem pixelAddr_div_width (hx : x < 128) (y : Nat) : pixelAddr x y / 128 = pageOf y := by
  rw [pixelAddr, Nat.add_mul_div_right _ _ (by decide), Nat.div_eq_of_lt hx, Nat.zero_add]

theorem pageOf_mul_add_bitOf (y : Nat) : pageOf y * 8 + bitOf y = y := Nat.div_add_mod' y 8

theorem pageOf_mul_add (pg : Nat) (hb : b < 8) : pageOf (pg * 8 + b) = pg := by unfold pageOf; omega

theorem bitOf_mul_add (pg : Nat) (hb : b < 8) : bitOf (pg * 8 + b) = b := by unfold bitOf; omega

theorem pixelAddr_inverse (a : Nat) (hb : b < 8) : pixelAddr (a % 128) (a / 128 * 8 + b) = a := by
  rw [pixelAddr, pageOf_mul_add _ hb, Nat.mod_add_div']

end

/-- Settles O13: the map and its inverse undo each other, in both orders and within both ranges. -/
theorem pixelMapIsABijection : Obligations.PixelMapIsABijection := by
  refine ⟨fun x y hx hy => ?_, fun a b ha hb => ?_, fun _ _ _ => rfl⟩
  · have hy' : pixelAddr x y / 128 * 8 + bitOf y = y := by rw [pixelAddr_div_width hx, pageOf_mul_add_bitOf]
    exact ⟨pixelAddr_lt hx hy, bitOf_lt y, pixelAddr_mod_width hx y, hy'⟩
  · exact ⟨Nat.mod_lt a (by decide), by omega, pixelAddr_inverse a hb, bitOf_mul_add _ hb⟩

/-! ## What is added to the histories (R38, R56, R154) -/

/-- From `s` to `t` the bus trace has only grown, and at most one completion was delivered, which left the sequencer idle:
that is why a run of transactions delivers no second one. -/
structure AddsToHistories (s t : State) : Prop where
  trace : s.trace <+: t.trace
  completions : t.completions = s.completions ∨ (t.seq = .idle ∧ ∃ r, t.completions = s.completions ++ [r])

theorem State.dropReady_trace (s : State) (pos : Option CtlPos) : (s.dropReady pos).trace = s.trace := by
  unfold State.dropReady; split <;> rfl

theorem State.dropReady_completions (s : State) (pos : Option CtlPos) : (s.dropReady pos).completions = s.completions := by
  unfold State.dropReady; split <;> rfl

namespace AddsToHistories

variable {s t u : State}

theorem refl (s : State) : AddsToHistories s s := ⟨List.prefix_rfl, .inl rfl⟩

theorem complete (s : State) (r : Completion) : AddsToHistories s (s.complete r) := ⟨List.prefix_rfl, .inr ⟨rfl, r, rfl⟩⟩

/-- What happens before any completion counts with what follows. -/
theorem after (h : AddsToHistories t u) (ht : s.trace <+: t.trace := by exact List.prefix_rfl)
    (hc : t.completions = s.completions := by rfl) : AddsToHistories s u :=
  ⟨ht.trans h.trace, hc ▸ h.completions⟩

/-! ### The transactions -/

theorem enterInit (s : State) (is : Nat) : AddsToHistories s (s.enterInit is) := by
  by_cases hi : is < s.cfg.initSeq.length
  · rw [State.enterInit_more hi]; exact after (refl _)
  · rw [State.enterInit_done (by omega)]; exact after (complete _ _)

theorem enterPageAfter (s : State) (pg : Fin 8) : AddsToHistories s (s.enterPageAfter pg) := by
  by_cases hp : pg.val + 1 < 8
  · rw [State.enterPageAfter_more hp]; exact after (refl _)
  · rw [State.enterPageAfter_last hp]; exact after (complete _ _)

theorem afterCommand (s : State) : AddsToHistories s s.afterCommand := by
  unfold State.afterCommand
  split
  · exact enterInit s _
  all_goals exact after (refl _)

theorem afterData (s : State) : AddsToHistories s s.afterData := by
  unfold State.afterData
  split
  · exact enterPageAfter s _
  · exact refl s

theorem sendCommand (s : State) (pos : Option CtlPos) (b : Byte) : AddsToHistories s (s.sendCommand pos b) := by
  cases ha : s.answers with
  | nil => rw [State.sendCommand_waiting pos b ha]; exact refl s
  | cons a rest =>
    cases a with
    | ack => rw [State.sendCommand_ack pos b ha]; exact after (afterCommand _) (List.prefix_append ..)
    | fault e =>
      rw [State.sendCommand_fault pos b ha]
      refine after (complete _ (.busFault e)) ?_ (State.dropReady_completions ..)
      rw [State.dropReady_trace]
      exact List.prefix_append ..

theorem sendSlice (s : State) (d : List Byte) : AddsToHistories s (s.sendSlice d) := by
  cases ha : s.answers with
  | nil => rw [State.sendSlice_waiting d ha]; exact refl s
  | cons a rest =>
    cases a with
    | ack => rw [State.sendSlice_ack d ha]; exact after (afterData _) (List.prefix_append ..)
    | fault e => rw [State.sendSlice_fault d ha]; exact after (complete _ (.busFault e)) (List.prefix_append ..)

theorem busStep (s : State) : AddsToHistories s s.busStep := by
  unfold State.busStep
  split
  · split
    · exact sendCommand s _ _
    · exact refl s
  · exact sendCommand s _ _
  · exact sendSlice s _
  · exact refl s

/-- A command in progress may go on with its transactions: once it has completed, there are none. -/
theorem runBus (h : AddsToHistories s t) (n : Nat) : AddsToHistories s (runBus n t) := by
  induction n generalizing t with
  | zero => exact h
  | succ n ih =>
    rcases h.completions with hc | ⟨hq, -⟩
    · exact ih (after (busStep t) h.trace hc)
    · rw [runBus_idle _ hq]; exact h

/-! ### The sequencer's own moves -/

theorem clearNext (s : State) (ci : Fin 1024) : AddsToHistories s (s.clearNext ci) := by
  by_cases h : ci.val + 1 < 1024
  · rw [State.clearNext_more h]; exact after (refl _)
  · rw [State.clearNext_last h]; exact after (complete _ _)

theorem glyphNext (s : State) (gi : Fin 5) (gj : Fin 8) : AddsToHistories s (s.glyphNext gi gj) := by
  by_cases hj : gj.val + 1 < 8
  · rw [State.glyphNext_row hj]; exact after (refl _)
  · by_cases hi : gi.val + 1 < 5
    · rw [State.glyphNext_column hj hi]; exact after (refl _)
    · rw [State.glyphNext_done hj hi, State.glyphDone]
      split
      · exact after (refl _)
      · exact after (complete _ _)

theorem takeChar (s : State) : AddsToHistories s s.takeChar := by
  unfold State.takeChar
  split
  · exact refl s
  · dsimp only
    split
    · exact after (complete _ _)
    · split <;> exact after (refl _)

theorem innerStep (s : State) : AddsToHistories s s.innerStep := by
  cases hq : s.seq with
  | settle => rw [State.innerStep_settle hq]; exact enterInit s 0
  | clearing ci => rw [State.innerStep_clearing hq]; exact clearNext s ci
  | pixel => rw [State.innerStep_pixel hq]; exact after (complete _ _)
  | glyph gi gj => rw [State.innerStep_glyph hq]; exact after (glyphNext _ gi gj)
  | nextChar => rw [State.innerStep_nextChar hq]; exact takeChar s
  | idle | initStep _ | pageCmd _ _ | pageData _ => simp only [State.innerStep, hq]; exact refl s

/-! ### The commands -/

theorem startInit (s : State) : AddsToHistories s s.startInit := after (enterInit _ 0)

theorem drawText (text : List Byte) (s : State) : AddsToHistories s (drawText text s) := by
  induction text generalizing s with
  | nil => exact after (refl _)
  | cons b rest ih =>
    by_cases hb : b = 0
    · subst hb; exact after (complete _ _)
    · rw [drawText_cons hb]; exact after (ih (s.drawNext b))

end AddsToHistories

/-- A row of the command word, run in an idle block. -/
theorem HostRow.addsToHistories {i : Instr} (hi : HostRow i) {s t : State} (hq : s.seq = .idle)
    (hx : exec i s = .next t) : AddsToHistories s t := by
  cases hi with
  | init => cases hx; exact (AddsToHistories.startInit s).runBus _
  | update => cases hx; exact AddsToHistories.runBus (.after (.refl s.startUpdate)) _
  | drawString x y on => cases hx; exact .after (.drawText s.text (s.startString x y on))
  | paint f hwf he => rw [he] at hx; cases hx; exact .after (.complete _ _)
  | illegal he => rw [he] at hx; cases hx; exact ⟨List.prefix_rfl, .inr ⟨hq, _, rfl⟩⟩

theorem step_addsToHistories {s t : State} (hstep : step s = .next t) : AddsToHistories s t := by
  rcases step_cases hstep with ⟨-, -, rfl⟩ | ⟨c, rest, hq, -, hx⟩ | ⟨-, rfl⟩ | ⟨-, -, rfl⟩
  · exact .refl _
  · exact AddsToHistories.after ((hostRow_decodeCmd c.word).addsToHistories (s := s.accept c rest) hq hx)
  · exact .busStep s
  · exact .innerStep s

/-- Settles O43: by the cases of a step. -/
theorem stepOnlyAddsToTheHistories : Obligations.StepOnlyAddsToTheHistories := by
  intro s t hstep
  obtain ⟨⟨T, hT⟩, hc⟩ := step_addsToHistories hstep
  exact ⟨⟨T, hT.symm⟩, hc.imp_right And.right⟩

end Sys2Proof.Machine
end

section
/-! # Proofs for `30_encoding.md`: the formats

The rows of a command word by its `op`, what decides a row, the bus payloads, and that decoding undoes encoding. -/

namespace Sys2Proof

/-! ## The row of each `op` (R52, R53) -/

section
variable {w : CmdWord}

theorem fieldOp_of_op {op : BitVec 3} (h : w.extractLsb' 0 3 = op) : fieldOp w = op.toNat := by rw [fieldOp, h]

theorem opRow_op0 (h : w.extractLsb' 0 3 = 0) : opRow w = .init := by rw [opRow, fieldOp_of_op h]; rfl

theorem opRow_op1 (h : w.extractLsb' 0 3 = 1) : opRow w = .clear := by rw [opRow, fieldOp_of_op h]; rfl

theorem opRow_op2 (h : w.extractLsb' 0 3 = 2) : opRow w = .update := by rw [opRow, fieldOp_of_op h]; rfl

theorem opRow_op3 (h : w.extractLsb' 0 3 = 3) : opRow w = .drawPixel (fieldX w) (fieldY w) (fieldOn w) := by
  rw [opRow, fieldOp_of_op h]; rfl

theorem opRow_op4 (h : w.extractLsb' 0 3 = 4) : opRow w = .drawChar (fieldX w) (fieldY w) (fieldC w) (fieldOn w) := by
  rw [opRow, fieldOp_of_op h]; rfl

theorem opRow_op5 (h : w.extractLsb' 0 3 = 5) : opRow w = .drawString (fieldX w) (fieldY w) (fieldOn w) := by
  rw [opRow, fieldOp_of_op h]; rfl

theorem opRow_op6 (h : w.extractLsb' 0 3 = 6) : opRow w = .reservedOp6 := by rw [opRow, fieldOp_of_op h]; rfl

theorem opRow_op7 (h : w.extractLsb' 0 3 = 7) : opRow w = .reservedOp7 := by rw [opRow, fieldOp_of_op h]; rfl

end

theorem op_cases (op : BitVec 3) :
    op = 0 ∨ op = 1 ∨ op = 2 ∨ op = 3 ∨ op = 4 ∨ op = 5 ∨ op = 6 ∨ op = 7 := by decide +revert

/-- The coordinate fields hold only what an encoding admits, so every row of `op` has one. -/
theorem wellFormed_opRow (w : CmdWord) : WellFormed (opRow w) := by
  have hxy : (coordOk (fieldX w) && coordOk (fieldY w)) = true := by
    rw [fieldX, fieldY, coordOk_toInt, coordOk_toInt]; rfl
  unfold opRow
  split
  case h_4 | h_5 | h_6 => exact hxy
  all_goals rfl

/-- Settles O7: with `rsv` = 0 the row is that of `op`. -/
theorem operandsAreTheFieldsOfTheWord : Obligations.OperandsAreTheFieldsOfTheWord := by
  intro w hrsv
  rw [decodeCmd_of_rsv_zero hrsv]
  exact ⟨opRow_op0, opRow_op1, opRow_op2, opRow_op3, opRow_op4, opRow_op5, wellFormed_opRow w⟩

/-! ## The fields a command does not use (R54) -/

/-- `rsv` alone decides whether and how it makes a word illegal. -/
theorem reservedRow_congr {w w' : CmdWord} (h : w.extractLsb' 4 4 = w'.extractLsb' 4 4) :
    reservedRow w = reservedRow w' := by
  have h4 : w.getLsbD 4 = w'.getLsbD 4 := getLsbD_of_field_eq h (i := 0) (by decide)
  have h5 : w.getLsbD 5 = w'.getLsbD 5 := getLsbD_of_field_eq h (i := 1) (by decide)
  have h6 : w.getLsbD 6 = w'.getLsbD 6 := getLsbD_of_field_eq h (i := 2) (by decide)
  have h7 : w.getLsbD 7 = w'.getLsbD 7 := getLsbD_of_field_eq h (i := 3) (by decide)
  simp only [reservedRow, h4, h5, h6, h7]

theorem decodeCmd_congr {w w' : CmdWord} (hrsv : w.extractLsb' 4 4 = w'.extractLsb' 4 4) (h : opRow w = opRow w') :
    decodeCmd w = decodeCmd w' := by
  rw [decodeCmd, decodeCmd, reservedRow_congr hrsv, h]

theorem opRow_congr_of_noOperands {w w' : CmdWord} (hop : w.extractLsb' 0 3 = w'.extractLsb' 0 3)
    (hlt : (w.extractLsb' 0 3).toNat < 3) : opRow w = opRow w' := by
  have h : w.extractLsb' 0 3 = 0 ∨ w.extractLsb' 0 3 = 1 ∨ w.extractLsb' 0 3 = 2 := by
    generalize w.extractLsb' 0 3 = op at hlt; decide +revert
  rcases h with h | h | h
  · rw [opRow_op0 h, opRow_op0 (hop ▸ h)]
  · rw [opRow_op1 h, opRow_op1 (hop ▸ h)]
  · rw [opRow_op2 h, opRow_op2 (hop ▸ h)]

/-- DRAW_PIXEL and DRAW_STRING read `x`, `y` and `on`. -/
theorem opRow_congr_of_noCode {w w' : CmdWord} (hop : w.extractLsb' 0 3 = w'.extractLsb' 0 3)
    (h : w.extractLsb' 0 3 = 3 ∨ w.extractLsb' 0 3 = 5) (hx : fieldX w = fieldX w') (hy : fieldY w = fieldY w')
    (hon : fieldOn w = fieldOn w') : opRow w = opRow w' := by
  rcases h with h | h
  · rw [opRow_op3 h, opRow_op3 (hop ▸ h), hx, hy, hon]
  · rw [opRow_op5 h, opRow_op5 (hop ▸ h), hx, hy, hon]

/-- Settles O8: words that agree in `rsv` and in the fields their row uses decode alike. -/
theorem unusedFieldsAreIgnored : Obligations.UnusedFieldsAreIgnored := by
  refine ⟨fun w w' hop hrsv => ⟨fun hlt => ?_, fun h hx hy hon => ?_⟩, rfl, rfl, rfl, ?_, ?_⟩
  · exact decodeCmd_congr hrsv (opRow_congr_of_noOperands hop hlt)
  · exact decodeCmd_congr hrsv
      (opRow_congr_of_noCode hop h (congrArg BitVec.toInt hx) (congrArg BitVec.toInt hy) hon)
  · exact fun x y on => ⟨_, rfl, packCmd_c ..⟩
  · exact fun x y on => ⟨_, rfl, packCmd_c ..⟩

/-! ## Bus payloads (R58) -/

theorem decode_bus_command (b : Byte) : decode (.bus [0x00, b]) = .ok (.busCmd b) := rfl

theorem decode_bus_data {d : List Byte} (h : d.length = 128) : decode (.bus (0x40 :: d)) = .ok (.busData d) := if_pos h

/-- Settles O12: by the payload's control byte. -/
theorem payloadKindFollowsFromTheControlByte : Obligations.PayloadKindFollowsFromTheControlByte := by
  intro p i
  constructor
  · intro h
    change decodeBus p = .ok i at h
    unfold decodeBus at h
    split at h
    case h_1 => cases h
    case h_2 ctrl d =>
      split_ifs at h with hcmd hdata hlen
      · split at h <;> cases h
        subst hcmd
        exact .inl ⟨_, rfl, rfl⟩
      · cases h
        subst hdata
        exact .inr ⟨d, hlen, rfl, rfl⟩
  · rintro (⟨b, rfl, rfl⟩ | ⟨d, hd, rfl, rfl⟩)
    · exact decode_bus_command b
    · exact decode_bus_data hd

/-! ## Decoding undoes encoding -/

section
variable (y x : Int) (c : Byte) (on : Bool) (op : BitVec 3)

/-- A packed word with `rsv` = 0 decodes to the row of its `op`. -/
theorem decodeCmd_packCmd : decodeCmd (packCmd y x c 0 on op) = opRow (packCmd y x c 0 on op) :=
  decodeCmd_of_rsv_zero (packCmd_rsv ..)

variable (rsv : BitVec 4)

theorem fieldC_packCmd : fieldC (packCmd y x c rsv on op) = c := packCmd_c ..

theorem fieldOn_packCmd : fieldOn (packCmd y x c rsv on op) = on := packCmd_on ..

variable {y x}

theorem fieldX_packCmd (hx : coordOk x = true) : fieldX (packCmd y x c rsv on op) = x := by
  rw [fieldX, packCmd_x, toInt_ofInt_of_coordOk hx]

theorem fieldY_packCmd (hy : coordOk y = true) : fieldY (packCmd y x c rsv on op) = y := by
  rw [fieldY, packCmd_y, toInt_ofInt_of_coordOk hy]

end

theorem decode_encode_drawPixel {x y : Int} (on : Bool) (hx : coordOk x = true) (hy : coordOk y = true) :
    decode (encode (.drawPixel x y on)) = .ok (.drawPixel x y on) := by
  rw [encode, decode, decodeCmd_packCmd, opRow_op3 (packCmd_op ..), fieldX_packCmd _ _ _ _ hx,
    fieldY_packCmd _ _ _ _ hy, fieldOn_packCmd]

theorem decode_encode_drawChar {x y : Int} (c : Byte) (on : Bool) (hx : coordOk x = true) (hy : coordOk y = true) :
    decode (encode (.drawChar x y c on)) = .ok (.drawChar x y c on) := by
  rw [encode, decode, decodeCmd_packCmd, opRow_op4 (packCmd_op ..), fieldX_packCmd _ _ _ _ hx,
    fieldY_packCmd _ _ _ _ hy, fieldC_packCmd, fieldOn_packCmd]

theorem decode_encode_drawString {x y : Int} (on : Bool) (hx : coordOk x = true) (hy : coordOk y = true) :
    decode (encode (.drawString x y on)) = .ok (.drawString x y on) := by
  rw [encode, decode, decodeCmd_packCmd, opRow_op5 (packCmd_op ..), fieldX_packCmd _ _ _ _ hx,
    fieldY_packCmd _ _ _ _ hy, fieldOn_packCmd]

theorem decode_encode_ctlPageSelect (pg : Fin 8) : decode (encode (.ctlPageSelect pg)) = .ok (.ctlPageSelect pg) :=
  if_pos rfl

/-- The 27 rows of INIT, each at its entry. -/
theorem decode_encode_initSeq {i : Instr} (h : i ∈ initSeqInstrs) : decode (encode i) = .ok i := by
  revert i; decide

/-- Settles O11: by the instruction's format. -/
theorem decodingAnEncodingGivesTheInstruction : Obligations.DecodingAnEncodingGivesTheInstruction := by
  intro i hwf
  cases i with
  | drawPixel x y on => obtain ⟨hx, hy⟩ := Bool.and_eq_true_iff.1 hwf; exact decode_encode_drawPixel on hx hy
  | drawChar x y c on => obtain ⟨hx, hy⟩ := Bool.and_eq_true_iff.1 hwf; exact decode_encode_drawChar c on hx hy
  | drawString x y on => obtain ⟨hx, hy⟩ := Bool.and_eq_true_iff.1 hwf; exact decode_encode_drawString on hx hy
  | init | clear | update | reservedOp6 | reservedOp7 | reservedRsv7 | reservedRsv6 | reservedRsv5 | reservedRsv4 => rfl
  | busCmd b => exact decode_bus_command b
  | busData d => exact decode_bus_data (beq_iff_eq.1 hwf)
  | ctlPageSelect pg => exact decode_encode_ctlPageSelect pg
  | ctlColLow | ctlColHigh => rfl
  | initSeq00 | initSeq01 | initSeq02 | initSeq03 | initSeq04 | initSeq05 | initSeq06 | initSeq07 | initSeq08
  | initSeq09 | initSeq10 | initSeq11 | initSeq12 | initSeq13 | initSeq14 | initSeq15 | initSeq16 | initSeq17
  | initSeq18 | initSeq19 | initSeq20 | initSeq21 | initSeq22 | initSeq23 | initSeq24 | initSeq25 | initSeq26 =>
    exact decode_encode_initSeq (by decide)

/-- Settles O6: each word is evaluated; the data transaction's by its length. -/
theorem wordsOfEveryFamilyDecodeAsWritten : Obligations.WordsOfEveryFamilyDecodeAsWritten :=
  ⟨by decide, by decide, by decide, by decide, by decide, by decide, by decide, by decide, by decide, by decide,
    decode_bus_command _, by decide, decode_bus_data List.length_replicate, by decide, by decide, by decide, by decide,
    by decide⟩

/-! ## The page-select byte (R58) -/

/-- Settles O36: `PAGE_BASE + 7 ≤ 255` leaves room for every page index; the default's low three bits are zero. -/
theorem pageSelectByteNeverCarries : Obligations.PageSelectByteNeverCarries := by
  refine ⟨fun c pg ⟨hbase, _, _⟩ => ?_, ⟨by decide, rfl, rfl⟩, ?_⟩
  · have hpg : pg.val < 8 := pg.isLt
    rw [BitVec.toNat_add, BitVec.toNat_ofNat]
    omega
  · change ∀ pg : Fin 8, 0xB0#8 + BitVec.ofNat 8 pg.val = 0xB0#8 ||| BitVec.ofNat 8 pg.val
    decide

end Sys2Proof
end

section
/-! # Proofs for `30_encoding.md`: what a command word does

Illegal words, the presented command, and how commands end. -/

namespace Sys2Proof.Machine

/-! ## Illegal words (R55, R122) -/

/-- The six illegal rows. -/
def illegalRows : List Instr :=
  [.reservedOp6, .reservedOp7, .reservedRsv7, .reservedRsv6, .reservedRsv5, .reservedRsv4]

theorem exec_illegalRows {i : Instr} (hi : i ∈ illegalRows) (s : State) : exec i s = .next s.raiseIllegal := by
  simp only [illegalRows, List.mem_cons, List.not_mem_nil, or_false] at hi
  rcases hi with rfl | rfl | rfl | rfl | rfl | rfl <;> rfl

/-- Settles O10: each row raises `Illegal`. -/
theorem reservedRowsCompleteIllegal : Obligations.ReservedRowsCompleteIllegal :=
  fun _ hi s => exec_illegalRows hi s

section
variable {w : CmdWord}

/-- A word is illegal by its `op` or by its `rsv`. -/
theorem decodeCmd_mem_illegalRows
    (h : w.extractLsb' 0 3 = 6 ∨ w.extractLsb' 0 3 = 7 ∨ w.extractLsb' 4 4 ≠ 0) : decodeCmd w ∈ illegalRows := by
  rcases reservedRow_cases w with hr | hr | hr | hr | hr <;> rw [decodeCmd, hr]
  · rcases h with h | h | h
    · rw [opRow_op6 h]; decide
    · rw [opRow_op7 h]; decide
    · exact absurd ((reservedRow_eq_none_iff w).1 hr) h
  all_goals rw [Option.getD_some]; decide

theorem decodeCmd_of_legal (h6 : w.extractLsb' 0 3 ≠ 6) (h7 : w.extractLsb' 0 3 ≠ 7) (hrsv : w.extractLsb' 4 4 = 0) :
    decodeCmd w = .init ∨ decodeCmd w = .clear ∨ decodeCmd w = .update ∨ (∃ x y on, decodeCmd w = .drawPixel x y on) ∨
      (∃ x y c on, decodeCmd w = .drawChar x y c on) ∨ ∃ x y on, decodeCmd w = .drawString x y on := by
  rw [decodeCmd_of_rsv_zero hrsv]
  rcases op_cases (w.extractLsb' 0 3) with h | h | h | h | h | h | h | h
  · exact .inl (opRow_op0 h)
  · exact .inr (.inl (opRow_op1 h))
  · exact .inr (.inr (.inl (opRow_op2 h)))
  · exact .inr (.inr (.inr (.inl ⟨_, _, _, opRow_op3 h⟩)))
  · exact .inr (.inr (.inr (.inr (.inl ⟨_, _, _, _, opRow_op4 h⟩))))
  · exact .inr (.inr (.inr (.inr (.inr ⟨_, _, _, opRow_op5 h⟩))))
  · exact absurd h h6
  · exact absurd h h7

end

/-- Settles O9: the illegal words are those of the six rows. -/
theorem illegalWordsCompleteIllegalAndOthersAreCommands : Obligations.IllegalWordsCompleteIllegalAndOthersAreCommands := by
  refine fun w s => ⟨fun h => ⟨s.latches, exec_illegalRows (decodeCmd_mem_illegalRows h) s⟩, fun h => ?_⟩
  push Not at h
  obtain ⟨h6, h7, hrsv⟩ := h
  exact decodeCmd_of_legal h6 h7 hrsv

/-! ## Taking a command (R50, R14) -/

/-- Only an idle block takes a command. -/
theorem step_cmds {s t : State} (hq : s.seq ≠ .idle) (hstep : step s = .next t) : t.cmds = s.cmds := by
  rcases step_cases hstep with ⟨hidle, -, -⟩ | ⟨-, -, hidle, -, -⟩ | ⟨-, rfl⟩ | ⟨-, -, rfl⟩
  · exact absurd hidle hq
  · exact absurd hidle hq
  · obtain ⟨-, -, hcmds, -⟩ := SameStores.busStep s; exact hcmds
  · obtain ⟨-, hcmds, -⟩ := SameBus.innerStep s; exact hcmds

/-- Settles O4: the idle block's step, and the frame of every other step. -/
theorem stepRunsThePresentedCommand : Obligations.StepRunsThePresentedCommand := by
  refine ⟨fun s c rest i hq hc hd => ?_, fun s t => step_cmds⟩
  have hi : decodeCmd c.word = i := Except.ok.inj hd
  rw [step_idle_command hq hc, hi]
  rfl

/-! ## Completing a command (R56) -/

theorem Completion.status_ne_three : ∀ r : Completion, r.status ≠ 0b11
  | .ok => by decide
  | .busFault _ => show (0b01 : BitVec 2) ≠ 0b11 by decide
  | .illegal => by decide

/-- Settles O2: field by field. -/
theorem completionDeliversOneStatusAndIdles : Obligations.CompletionDeliversOneStatusAndIdles :=
  ⟨fun _ _ => ⟨rfl, rfl, rfl, rfl, rfl, rfl, rfl, rfl, rfl, rfl⟩, rfl, fun _ => rfl, rfl, Completion.status_ne_three⟩

/-! ## A text without a terminator (R57, U7) -/

/-- At `NextChar` a block to which no byte is offered waits. -/
theorem step_nextChar_waiting {s : State} (hq : s.seq = .nextChar) (ht : s.text = []) : step s = .next s := by
  rw [step_inner (by simp [hq]) (by simp [hq, Seq.isBus]), State.innerStep_nextChar hq, State.takeChar, ht]

theorem drawText_unterminated {t : List Byte} (ht : ∀ b ∈ t, b ≠ 0) (s : State) :
    drawText t s = { t.foldl (fun s b => s.drawNext b) s with text := [], seq := .nextChar } := by
  have h := drawText_append t [] ht s
  rwa [List.append_nil, drawText_nil] at h

/-- Settles O24: the characters are drawn one by one and the block then stands at `NextChar`. -/
theorem unterminatedTextNeverCompletes : Obligations.UnterminatedTextNeverCompletes := by
  intro x y on s ht
  have hdrawn := foldl_drawNext s.cfg x y on s.text 0 (s.startString x y on) rfl (by simp) rfl rfl
  have hcompletions := congrArg State.completions hdrawn
  have hcmds := congrArg State.cmds hdrawn
  have hfb := congrArg State.fb hdrawn
  exact ⟨_, congrArg Host.Outcome.next (drawText_unterminated ht _), rfl, rfl, hcompletions, hcmds, hfb,
    step_nextChar_waiting rfl rfl⟩

/-! ## How commands end (R56) -/

/-- A completion that INIT or UPDATE can deliver to a transport which gives these answers. -/
inductive Completion.GivenBy (as : List BusAnswer) : Completion → Prop
  | ok : Completion.GivenBy as .ok
  | busFault {e : FaultInfo} (h : .fault e ∈ as) : Completion.GivenBy as (.busFault e)

/-- From `s` to `t` a command is in progress, with some of the answers still to come, or it has ended by one of them. -/
inductive EndsByAnswers (s t : State) : Prop
  | running (ha : t.answers ⊆ s.answers) (hc : t.completions = s.completions)
  | ended {r : Completion} (hq : t.seq = .idle) (hr : r.GivenBy s.answers) (hc : t.completions = s.completions ++ [r])

namespace EndsByAnswers

variable {s t u : State}

theorem refl (s : State) : EndsByAnswers s s := .running (List.Subset.refl _) rfl

theorem completeOk (s : State) : EndsByAnswers s (s.complete .ok) := .ended rfl .ok rfl

/-- What happens before the end counts with what follows. -/
theorem after (h : EndsByAnswers t u) (ha : t.answers ⊆ s.answers) (hc : t.completions = s.completions) :
    EndsByAnswers s u := by
  cases h with
  | running ha' hc' => exact .running (List.Subset.trans ha' ha) (hc'.trans hc)
  | ended hq hr hc' =>
    refine .ended hq ?_ (hc ▸ hc')
    cases hr with
    | ok => exact .ok
    | busFault he => exact .busFault (ha he)

theorem enterInit (s : State) (is : Nat) : EndsByAnswers s (s.enterInit is) := by
  by_cases hi : is < s.cfg.initSeq.length
  · rw [State.enterInit_more hi]; exact .running (List.Subset.refl _) rfl
  · rw [State.enterInit_done (by omega)]; exact (completeOk s.setReady).after (List.Subset.refl _) rfl

theorem enterPageAfter (s : State) (pg : Fin 8) : EndsByAnswers s (s.enterPageAfter pg) := by
  by_cases hp : pg.val + 1 < 8
  · rw [State.enterPageAfter_more hp]; exact .running (List.Subset.refl _) rfl
  · rw [State.enterPageAfter_last hp]; exact completeOk s

theorem afterPageCmd (s : State) (pg : Fin 8) (k : PageCmdKind) : EndsByAnswers s (s.afterPageCmd pg k) := by
  cases k <;> exact .running (List.Subset.refl _) rfl

theorem busStep_ack {rest : List BusAnswer} (ha : s.answers = .ack :: rest) : EndsByAnswers s s.busStep := by
  have hrest : rest ⊆ s.answers := ha ▸ List.subset_cons_self ..
  cases hq : s.seq with
  | initStep is =>
    cases hb : s.cfg.initSeq[is]? with
    | none => simp only [State.busStep, hq, hb]; exact refl s
    | some b => rw [State.busStep_initStep_ack hq hb ha]; exact (enterInit _ _).after hrest rfl
  | pageCmd pg k => rw [State.busStep_pageCmd_ack hq ha]; exact (afterPageCmd _ _ _).after hrest rfl
  | pageData pg => rw [State.busStep_pageData_ack hq ha]; exact (enterPageAfter _ _).after hrest rfl
  | idle | settle | clearing _ | pixel | glyph _ _ | nextChar => simp only [State.busStep, hq]; exact refl s

theorem busStep_fault {e : FaultInfo} {rest : List BusAnswer} (ha : s.answers = .fault e :: rest) :
    EndsByAnswers s s.busStep := by
  have hended (hq : s.seq.isBus) (hr : ∀ is, s.seq = .initStep is → is < s.cfg.initSeq.length) :
      EndsByAnswers s s.busStep := by
    obtain ⟨hidle, hc⟩ := State.busStep_fault ha hq hr
    exact .ended hidle (.busFault (ha ▸ List.mem_cons_self)) hc
  cases hq : s.seq with
  | initStep is =>
    by_cases hi : is < s.cfg.initSeq.length
    · exact hended (hq ▸ trivial) fun k hk => by rw [hq] at hk; cases hk; exact hi
    · simp only [State.busStep, hq, List.getElem?_eq_none (not_lt.1 hi)]; exact refl s
  | pageCmd pg k => exact hended (hq ▸ trivial) fun k hk => by rw [hq] at hk; cases hk
  | pageData pg => exact hended (hq ▸ trivial) fun k hk => by rw [hq] at hk; cases hk
  | idle | settle | clearing _ | pixel | glyph _ _ | nextChar => simp only [State.busStep, hq]; exact refl s

theorem busStep (s : State) : EndsByAnswers s s.busStep := by
  cases ha : s.answers with
  | nil => rw [State.busStep_waiting ha]; exact refl s
  | cons a rest =>
    cases a with
    | ack => exact busStep_ack ha
    | fault e => exact busStep_fault ha

/-- A command that has ended makes no further transaction. -/
theorem runBus (h : EndsByAnswers s t) (n : Nat) : EndsByAnswers s (runBus n t) := by
  induction n generalizing t with
  | zero => exact h
  | succ n ih =>
    cases h with
    | running ha hc => exact ih ((busStep t).after ha hc)
    | ended hq hr hc => rw [runBus_idle _ hq]; exact .ended hq hr hc

theorem startInit (s : State) : EndsByAnswers s s.startInit := (enterInit _ 0).after (List.Subset.refl _) rfl

theorem startUpdate (s : State) : EndsByAnswers s s.startUpdate := .running (List.Subset.refl _) rfl

/-- The completion delivered is one of the transport's. -/
theorem givenBy (h : EndsByAnswers s t) {r : Completion} (hc : t.completions = s.completions ++ [r]) :
    r.GivenBy s.answers := by
  cases h with
  | running _ hc' => simp [hc'] at hc
  | ended _ hr hc' =>
    obtain rfl : _ = r := by simpa [hc'] using hc
    exact hr

end EndsByAnswers

theorem exec_init_or_update_endsByAnswers {i : Instr} (hi : i = .init ∨ i = .update) {s t : State}
    (hx : exec i s = .next t) : EndsByAnswers s t := by
  rcases hi with rfl | rfl
  · cases hx; exact (EndsByAnswers.startInit s).runBus _
  · cases hx; exact (EndsByAnswers.startUpdate s).runBus _

/-- DRAW_STRING's loop has not completed, or has completed `OK`. -/
theorem drawText_completions (text : List Byte) (s : State) :
    (drawText text s).completions = s.completions ∨ (drawText text s).completions = s.completions ++ [.ok] := by
  induction text generalizing s with
  | nil => exact .inl rfl
  | cons b rest ih =>
    by_cases hb : b = 0
    · subst hb; exact .inr rfl
    · rw [drawText_cons hb]; exact ih (s.drawNext b)

/-- A command that changes the framebuffer and completes `OK` delivers `OK` alone. -/
theorem eq_ok_of_paint {fb : Memory} {s t : State} {r : Completion}
    (hx : (.next (State.complete .ok { s with fb := fb }) : Host.Outcome State Fault Refusal) = .next t)
    (hc : t.completions = s.completions ++ [r]) : r = .ok := by
  cases hx
  simpa [eq_comm] using hc

theorem exec_drawing_ends_ok {i : Instr}
    (hi : i = .clear ∨ (∃ x y on, i = .drawPixel x y on) ∨ (∃ x y c on, i = .drawChar x y c on) ∨
      ∃ x y on, i = .drawString x y on) {s t : State} {r : Completion} (hx : exec i s = .next t)
    (hc : t.completions = s.completions ++ [r]) : r = .ok := by
  rcases hi with rfl | ⟨x, y, on, rfl⟩ | ⟨x, y, c, on, rfl⟩ | ⟨x, y, on, rfl⟩
  · exact eq_ok_of_paint (exec_clear s ▸ hx) hc
  · exact eq_ok_of_paint (exec_drawPixel x y on s ▸ hx) hc
  · exact eq_ok_of_paint (exec_drawChar x y c on s ▸ hx) hc
  · cases hx
    rcases drawText_completions s.text (s.startString x y on) with h | h
    · simp [h] at hc
    · simpa [h, eq_comm] using hc

/-- Settles O44: INIT and UPDATE end by the transport's answers, the others as they complete. -/
theorem drawingEndsOnlyWithOk : Obligations.DrawingEndsOnlyWithOk := by
  refine fun i s t r hx hc => ⟨fun hi => exec_drawing_ends_ok hi hx hc, fun hi => ?_⟩
  cases (exec_init_or_update_endsByAnswers hi hx).givenBy hc with
  | ok => exact .inl rfl
  | busFault he => exact .inr ⟨_, rfl, he⟩

end Sys2Proof.Machine
end

section
/-! # Proofs for `40_framebuffer_pixel.md`

CLEAR, the pixel setter and its laws, and what the drawing commands leave alone. -/

namespace Sys2Proof.Machine

/-! ## CLEAR (R71) -/

/-- After CLEAR's loop every pixel is off. -/
theorem clearFb_pixel (c : Cfg) (m : Memory) {x y : Nat} (hx : x < 128) (hy : y < 64) :
    (clearFb c m).pixel c x y = false := by
  rw [Memory.pixel, clearFb_read c m (pixelAddr_lt hx hy)]
  exact BitVec.getLsbD_zero

/-- Settles O14: the framebuffer it leaves is that of CLEAR's loop. -/
theorem clearZeroesTheFramebuffer : Obligations.ClearZeroesTheFramebuffer :=
  ⟨rfl, fun s => ⟨clearFb s.cfg s.fb, exec_clear s, fun _ => clearFb_read s.cfg s.fb,
    fun _ _ => clearFb_pixel s.cfg s.fb, clearFb_wf⟩⟩

/-! ## The pixel setter (R72) -/

/-- On the screen `SetPixel` writes one byte, that of the pixel, with the pixel's bit set or cleared. -/
theorem setPixel_onScreen (c : Cfg) {u v : Nat} (hu : u < 128) (hv : v < 64) (on : Bool) (m : Memory) :
    setPixel c u v on m =
      m.write c (pixelAddr u v)
        (if on then m.read c (pixelAddr u v) ||| bitMask (bitOf v)
          else m.read c (pixelAddr u v) &&& ~~~bitMask (bitOf v)) :=
  if_pos (show onScreen u v by omega)

/-- Settles O15: the framebuffer it leaves is that of `SetPixel`. -/
theorem drawPixelWritesOneBit : Obligations.DrawPixelWritesOneBit := by
  refine fun x y on => ⟨rfl, fun s => ⟨setPixel s.cfg x y on s.fb, exec_drawPixel x y on s, setPixel_off on s.fb, ?_,
    fun x' y' hx hy => setPixel_pixel s.cfg x y on s.fb hx hy⟩⟩
  rintro u v rfl rfl hu hv
  rw [setPixel_onScreen s.cfg hu hv]
  exact ⟨Memory.read_write_same .., fun a ha => Memory.read_write_other s.cfg s.fb _ ha.symm⟩

/-! ## The laws of the pixel setter (R73) -/

/-- What one call of `SetPixel` does to the value `v` of pixel `(x, y)`. -/
def pixelAfter (x y : Nat) (v : Bool) (p : Int × Int × Bool) : Bool := if p.1 = x ∧ p.2.1 = y then p.2.2 else v

/-- A run of calls changes a pixel by each call in turn. -/
theorem foldl_setPixel_pixel (c : Cfg) (ps : List (Int × Int × Bool)) (m : Memory) {x y : Nat} (hx : x < 128)
    (hy : y < 64) :
    (ps.foldl (fun m p => setPixel c p.1 p.2.1 p.2.2 m) m).pixel c x y = ps.foldl (pixelAfter x y) (m.pixel c x y) :=
  (List.foldl_hom (fun m => Memory.pixel c m x y) fun m p => (setPixel_pixel c p.1 p.2.1 p.2.2 m hx hy).symm).symm

/-- Two calls name one pixel only if they are the same call, so their order does not matter. -/
theorem pixelAfter_comm {p q : Int × Int × Bool} (h : (p.1, p.2.1) = (q.1, q.2.1) → p = q) (x y : Nat) (v : Bool) :
    pixelAfter x y (pixelAfter x y v p) q = pixelAfter x y (pixelAfter x y v q) p := by
  unfold pixelAfter
  by_cases hp : p.1 = x ∧ p.2.1 = y
  · by_cases hq : q.1 = x ∧ q.2.1 = y
    · have hpq : p = q := h (Prod.ext (hp.1.trans hq.1.symm) (hp.2.trans hq.2.symm))
      rw [hpq]
    · simp only [if_neg hq]
  · simp only [if_neg hp]

/-- Law (d): of two calls on one pixel the later wins. -/
theorem setPixel_setPixel_read (c : Cfg) (x y : Int) (on on' : Bool) (m : Memory) {a : Nat} (ha : a < 1024) :
    (setPixel c x y on' (setPixel c x y on m)).read c a = (setPixel c x y on' m).read c a := by
  refine Memory.read_eq_of_pixel (fun x' hx y' hy => ?_) ha
  simp only [setPixel_pixel c _ _ _ _ hx hy]
  by_cases h : x = x' ∧ y = y'
  · simp only [if_pos h]
  · simp only [if_neg h]

/-- Laws (d) and (e): calls on pairwise different pixels may be made in any order. -/
theorem foldl_setPixel_read_perm (c : Cfg) {ps qs : List (Int × Int × Bool)} (hperm : ps.Perm qs)
    (hdistinct : (ps.map fun p => (p.1, p.2.1)).Nodup) (m : Memory) {a : Nat} (ha : a < 1024) :
    (ps.foldl (fun m p => setPixel c p.1 p.2.1 p.2.2 m) m).read c a =
      (qs.foldl (fun m p => setPixel c p.1 p.2.1 p.2.2 m) m).read c a := by
  refine Memory.read_eq_of_pixel (fun x hx y hy => ?_) ha
  rw [foldl_setPixel_pixel c ps m hx hy, foldl_setPixel_pixel c qs m hx hy]
  exact hperm.foldl_eq' (fun p hp q hq => pixelAfter_comm (List.inj_on_of_nodup_map hdistinct hp hq) x y) _

/-- Settles O16: (a) and (b) by `setPixel_pixel`, (c) by `setPixel_off`, (d) and (e) by the two laws above. -/
theorem setPixelLaws : Obligations.SetPixelLaws := by
  refine fun c m => ⟨fun x y on x' y' hx hy => ?_, fun x y on => setPixel_off on m,
    fun x y on on' a ha => setPixel_setPixel_read c x y on on' m ha,
    fun ps qs hperm hdistinct a ha => foldl_setPixel_read_perm c hperm hdistinct m ha⟩
  rw [setPixel_pixel c x y on m hx hy]
  exact ⟨fun h => if_pos h, fun h => if_neg h⟩

/-! ## The frame of the drawing commands (R71, R72, R84, R88) -/

theorem exec_drawString_frame {x y : Int} {on : Bool} {s t : State} (hx : exec (.drawString x y on) s = .next t) :
    SameBus s t ∧ t.ctrl = s.ctrl := by
  cases hx
  obtain ⟨hcfg, hctrl, hcmds, hanswers, htrace, hcontroller⟩ := drawText_same s.text (s.startString x y on)
  exact ⟨⟨hcfg, hcmds, hanswers, htrace, hcontroller⟩, hctrl⟩

theorem exec_drawing_frame {i : Instr}
    (hi : i = .clear ∨ (∃ x y on, i = .drawPixel x y on) ∨ (∃ x y c on, i = .drawChar x y c on) ∨
      ∃ x y on, i = .drawString x y on) {s t : State} (hx : exec i s = .next t) :
    SameBus s t ∧ t.ctrl = s.ctrl ∧ ((∀ x y on, i ≠ .drawString x y on) → t.text = s.text) := by
  have hpaint {fb : Memory} (he : exec i s = .next (State.complete .ok { s with fb := fb })) :
      SameBus s t ∧ t.ctrl = s.ctrl ∧ ((∀ x y on, i ≠ .drawString x y on) → t.text = s.text) := by
    rw [he] at hx
    cases hx
    exact ⟨⟨rfl, rfl, rfl, rfl, rfl⟩, rfl, fun _ => rfl⟩
  rcases hi with rfl | ⟨x, y, on, rfl⟩ | ⟨x, y, c, on, rfl⟩ | ⟨x, y, on, rfl⟩
  · exact hpaint (exec_clear s)
  · exact hpaint (exec_drawPixel x y on s)
  · exact hpaint (exec_drawChar x y c on s)
  · obtain ⟨hbus, hctrl⟩ := exec_drawString_frame hx
    exact ⟨hbus, hctrl, fun h => absurd rfl (h x y on)⟩

/-- Settles O39: three of the commands write the framebuffer alone, and DRAW_STRING's loop keeps the frame. -/
theorem drawingTouchesOnlyTheFramebuffer : Obligations.DrawingTouchesOnlyTheFramebuffer := by
  intro i s t hx hi
  obtain ⟨⟨hcfg, hcmds, hanswers, htrace, hcontroller⟩, hctrl, htext⟩ := exec_drawing_frame hi hx
  exact ⟨hcfg, hctrl, hcmds, hanswers, htrace, hcontroller, htext⟩

end Sys2Proof.Machine
end

section
/-! # Proofs for `41_glyph_rasterizer.md`

The glyph ROM, the cell of a glyph and what DRAW_CHAR makes of it, and the picture of a string. -/

namespace Sys2Proof.Machine

/-! ## The glyph ROM (R80) -/

theorem romRead_eq_getElem (c : Cfg) {ch : Byte} {i : Nat} (h : (ch.toNat - 32) * 5 + i < 475) :
    romRead c ch i = c.glyph[(ch.toNat - 32) * 5 + i] := by
  rw [romRead, List.getD_eq_getElem _ _ (by rwa [Vector.length_toList]), Vector.getElem_toList]

/-- Settles O18: the largest address is `(126 − 32)·5 + 4`. -/
theorem romReadAddressesTheGlyphTable : Obligations.RomReadAddressesTheGlyphTable := by
  intro c ch i hfirst hlast hi
  have h : (ch.toNat - 32) * 5 + i < 475 := by omega
  exact ⟨h, romRead_eq_getElem c h⟩

/-! ## DRAW_CHAR by column `i` and row `j` of its cell (R84) -/

section
variable (c : Cfg) {x y : Int} {ch : Byte} (color : Bool) (m : Memory)

/-- The pixel of the cell in column `i` and row `j`. -/
theorem drawChar_pixel_cell (hc : hasGlyph ch) {i j x' y' : Nat} (hi : i < 5) (hj : j < 8) (hx' : x' < 128)
    (hy' : y' < 64) (hx : (x' : Int) = x + i) (hy : (y' : Int) = y + j) :
    (drawChar c x y ch color m).pixel c x' y' = glyphColor (romRead c ch i) j color := by
  have hcell : inCell x y x' y' := by omega
  have hcol : ((x' : Int) - x).toNat = i := by omega
  have hrow : ((y' : Int) - y).toNat = j := by omega
  rw [drawChar_pixel c x y hc color m hx' hy', if_pos hcell, hcol, hrow]

/-- A pixel outside the cell keeps its value, and so does every pixel when there is no glyph. -/
theorem drawChar_pixel_outside {x' y' : Nat} (hx' : x' < 128) (hy' : y' < 64) (h : hasGlyph ch → ¬ inCell x y x' y') :
    (drawChar c x y ch color m).pixel c x' y' = m.pixel c x' y' := by
  by_cases hc : hasGlyph ch
  · rw [drawChar_pixel c x y hc color m hx' hy', if_neg (h hc)]
  · rw [drawChar_noGlyph c x y hc]

/-- Bit `b` of byte `u + 128·p`, when that is column `i` and row `j` of the cell (R86). -/
theorem drawChar_getLsbD_cell (hc : hasGlyph ch) {i j u p b : Nat} (hi : i < 5) (hj : j < 8) (hu : u < 128) (hp : p < 8)
    (hb : b < 8) (hx : (u : Int) = x + i) (hy : ((8 * p + b : Nat) : Int) = y + j) :
    ((drawChar c x y ch color m).read c (u + p * 128)).getLsbD b = (inked (romRead c ch i) color).getLsbD j := by
  have hcell : inCell x y u (8 * p + b) := by omega
  have hcol : ((u : Int) - x).toNat = i := by omega
  have hrow : (((8 * p + b : Nat) : Int) - y).toNat = j := by omega
  rw [drawChar_getLsbD_read c x y hc color m hu hp hb, if_pos hcell, hcol, hrow]

end

/-- Settles O17: a code without a glyph leaves the framebuffer, one with a glyph paints its cell. -/
theorem drawCharPaintsItsWholeCell : Obligations.DrawCharPaintsItsWholeCell := by
  refine fun x y ch color => ⟨rfl, fun s => ⟨fun hc => ?_, fun hc => ⟨_, exec_drawChar x y ch color s, ?_, ?_⟩⟩⟩
  · rw [exec_drawChar, drawChar_noGlyph s.cfg x y hc]
  · exact fun i j x' y' hi hj hx' hy' => drawChar_pixel_cell s.cfg color s.fb hc hi hj hx' hy'
  · exact fun x' y' hx' hy' hout => drawChar_pixel_outside s.cfg color s.fb hx' hy' fun _ => hout

/-! ## Closed forms by bytes (R85, R86) -/

/-- Settles O20: bit by bit, inside the cell and outside. -/
theorem clippedGlyphClosedForm : Obligations.ClippedGlyphClosedForm := by
  refine fun x y ch color s hfirst hlast => ⟨_, exec_drawChar x y ch color s, fun u p b hu hp hb => ⟨?_, fun hout => ?_⟩⟩
  · exact fun i j hi hj => drawChar_getLsbD_cell s.cfg color s.fb ⟨hfirst, hlast⟩ hi hj hu hp hb
  · have hcell : ¬ inCell x y u (8 * p + b) := fun h =>
      hout (u - x).toNat ((8 * p + b : Nat) - y).toNat (by omega) (by omega) (by omega)
    exact (drawChar_getLsbD_read s.cfg x y ⟨hfirst, hlast⟩ color s.fb hu hp hb).trans (if_neg hcell)

/-- Settles O19: in one page, row `b` of the cell is bit `b` of the byte, for all eight of them. -/
theorem alignedGlyphReplacesWholeBytes : Obligations.AlignedGlyphReplacesWholeBytes := by
  refine fun x p ch color s hfirst hlast hp => ⟨_, exec_drawChar x _ ch color s, fun i x' hi hx' hx => ?_⟩
  refine BitVec.eq_of_getLsbD_eq fun b hb => ?_
  exact drawChar_getLsbD_cell s.cfg color s.fb ⟨hfirst, hlast⟩ hi hb hx' hp hb hx (by omega)

/-! ## The inverse law (R87) -/

theorem glyphColor_false (g : Byte) (j : Nat) : glyphColor g j false = !glyphColor g j true := by
  unfold glyphColor
  cases g.getLsbD j <;> rfl

section
variable (c : Cfg) (x y : Int) {ch : Byte} (hc : hasGlyph ch) (m : Memory)
include hc

/-- Color 0 is the complement of color 1 inside the cell and the same outside. -/
theorem drawChar_pixel_false {x' y' : Nat} (hx' : x' < 128) (hy' : y' < 64) :
    (drawChar c x y ch false m).pixel c x' y' =
      if inCell x y x' y' then !(drawChar c x y ch true m).pixel c x' y' else (drawChar c x y ch true m).pixel c x' y' := by
  rw [drawChar_pixel c x y hc false m hx' hy', drawChar_pixel c x y hc true m hx' hy']
  by_cases h : inCell x y x' y'
  · simp only [if_pos h, glyphColor_false]
  · simp only [if_neg h]

/-- Drawing a glyph again changes no byte: its cell already shows it. -/
theorem drawChar_drawChar_read (color : Bool) {a : Nat} (ha : a < 1024) :
    (drawChar c x y ch color (drawChar c x y ch color m)).read c a = (drawChar c x y ch color m).read c a := by
  refine Memory.read_eq_of_pixel (fun x' hx' y' hy' => ?_) ha
  simp only [drawChar_pixel c x y hc color _ hx' hy']
  by_cases h : inCell x y x' y'
  · simp only [if_pos h]
  · simp only [if_neg h]

end

/-- Settles O21: by the two laws above, the second for each color. -/
theorem glyphInverseLaw : Obligations.GlyphInverseLaw := by
  intro x y ch s hfirst hlast
  have hc : hasGlyph ch := ⟨hfirst, hlast⟩
  refine ⟨_, _, exec_drawChar x y ch false s, exec_drawChar x y ch true s,
    fun x' y' hx' hy' => drawChar_pixel_false s.cfg x y hc s.fb hx' hy', fun color => ?_⟩
  cases color with
  | false => exact ⟨_, exec_drawChar x y ch false _, fun a => drawChar_drawChar_read s.cfg x y hc s.fb false⟩
  | true => exact ⟨_, exec_drawChar x y ch true _, fun a => drawChar_drawChar_read s.cfg x y hc s.fb true⟩

/-! ## DRAW_STRING (R88) -/

/-- Characters drawn in turn, each with its number `k` in the text: at `(x + 6k, y)`. -/
def drawChars (c : Cfg) (x y : Int) (on : Bool) (ps : List (Byte × Nat)) (m : Memory) : Memory :=
  ps.foldl (fun m p => drawChar c (x + (6 * p.2 : Nat)) y p.1 on m) m

/-- DRAW_STRING over a text with its terminator: the characters before it are drawn, and the command completes. -/
theorem exec_drawString_terminated (x y : Int) (on : Bool) {t rest : List Byte} {s : State}
    (htext : s.text = t ++ 0 :: rest) (ht : ∀ b ∈ t, b ≠ 0) :
    exec (.drawString x y on) s =
      .next (State.complete .ok { s with text := rest, fb := drawChars s.cfg x y on t.zipIdx s.fb }) := by
  have hdrawn := foldl_drawNext s.cfg x y on t 0 (s.startString x y on) rfl (by simp) rfl rfl
  rw [exec_drawString, htext, drawText_append t _ ht, drawText_terminator]
  exact congrArg Host.Outcome.next (congrArg (fun u => State.complete .ok { u with text := rest }) hdrawn)

/-- Settles O22: the text is drawn up to its terminator. -/
theorem drawStringDrawsItsCharactersSixApart : Obligations.DrawStringDrawsItsCharactersSixApart :=
  fun x y on => ⟨rfl, fun _ _ _ htext ht => exec_drawString_terminated x y on htext ht⟩

/-! ## The picture of a string (R88, R89, R91) -/

section
variable (c : Cfg) {x y : Int} (on : Bool) {ps : List (Byte × Nat)} {x' y' : Nat} (hx' : x' < 128) (hy' : y' < 64)
include hx' hy'

/-- A pixel in no character's glyph keeps its value. -/
theorem drawChars_pixel_outside (h : ∀ p ∈ ps, hasGlyph p.1 → ¬ inCell (x + (6 * p.2 : Nat)) y x' y') (m : Memory) :
    (drawChars c x y on ps m).pixel c x' y' = m.pixel c x' y' := by
  induction ps generalizing m with
  | nil => rfl
  | cons p ps ih =>
    obtain ⟨hp, hps⟩ := List.forall_mem_cons.1 h
    exact (ih hps _).trans (drawChar_pixel_outside c on m hx' hy' hp)

/-- A pixel in character `p`'s glyph shows it: the cells of the other characters are at least 6 columns away, so none of
those drawn later covers it. -/
theorem drawChars_pixel_cell (hdistinct : (ps.map Prod.snd).Nodup) {p : Byte × Nat} (hp : p ∈ ps) (hc : hasGlyph p.1)
    {i j : Nat} (hi : i < 5) (hj : j < 8) (hx : (x' : Int) = x + (6 * p.2 + i : Nat)) (hy : (y' : Int) = y + j)
    (m : Memory) : (drawChars c x y on ps m).pixel c x' y' = glyphColor (romRead c p.1 i) j on := by
  induction ps generalizing m with
  | nil => cases hp
  | cons q ps ih =>
    obtain ⟨hfresh, htail⟩ := List.nodup_cons.1 hdistinct
    rcases List.mem_cons.1 hp with rfl | hp
    · have hlater : ∀ r ∈ ps, hasGlyph r.1 → ¬ inCell (x + (6 * r.2 : Nat)) y x' y' := fun r hr _ hcell => by
        have hne : r.2 ≠ p.2 := fun he => hfresh (he ▸ List.mem_map_of_mem hr)
        omega
      exact (drawChars_pixel_outside c on hx' hy' hlater _).trans
        (drawChar_pixel_cell c on m hc hi hj hx' hy' (by omega) hy)
    · exact ih htail hp _

end

/-- Settles O23: a numbered character of the text is `(ch, k)` with `t[k]? = some ch`. -/
theorem stringPictureAndSpacingColumns : Obligations.StringPictureAndSpacingColumns := by
  refine fun x y on t rest s htext ht => ⟨_, exec_drawString_terminated x y on htext ht,
    fun x' y' hx' hy' => ⟨fun k ch i j hk hfirst hlast hi hj hx hy => ?_, fun hout => ?_⟩⟩
  · exact drawChars_pixel_cell s.cfg on hx' hy' (List.nodup_zipIdx_map_snd t) (p := (ch, k))
      (List.mem_zipIdx_iff_getElem?.2 hk) ⟨hfirst, hlast⟩ hi hj hx hy s.fb
  · refine drawChars_pixel_outside s.cfg on hx' hy' (fun p hp hc hcell => ?_) s.fb
    exact hout p.2 p.1 (x' - (x + (6 * p.2 : Nat))).toNat (y' - y).toNat (List.mem_zipIdx_iff_getElem?.1 hp) hc.1 hc.2
      (by omega) (by omega) (by omega)

end Sys2Proof.Machine
end

section
/-! # Proofs for `42_controller_protocol.md`

One answered transaction, wherever the sequencer stands; what the bus rows send; INIT and UPDATE over their acknowledged
transactions, and how they end. -/

namespace Sys2Proof.Machine

/-! ## One answered transaction, wherever the sequencer stands (R96, R97, R121) -/

section
variable {s : State} {rest : List BusAnswer}

section
variable {is : Nat} (hq : s.seq = .initStep is) (ha : s.answers = .ack :: rest) (pos : Option CtlPos) (b : Byte)
include hq ha

/-- A command byte, acknowledged, with more entries to send: INIT goes on to the next one. -/
theorem State.sendCommand_ack_initStep_more (hmore : is + 1 < s.cfg.initSeq.length) :
    s.sendCommand pos b =
      { s.answered .ack rest (cmdPayload b) (s.controller.takeCommand s.panelSaid pos b) with
        seq := .initStep (is + 1) } := by
  rw [State.sendCommand_ack pos b ha, State.afterCommand]
  simp only [hq]
  exact State.enterInit_more hmore

/-- A command byte, acknowledged, with no more entries to send: INIT completes and leaves `Ready`. -/
theorem State.sendCommand_ack_initStep_done (hdone : s.cfg.initSeq.length ≤ is + 1) :
    s.sendCommand pos b =
      State.complete .ok
        { s.answered .ack rest (cmdPayload b) (s.controller.takeCommand s.panelSaid pos b) with ctrl := .ready } := by
  rw [State.sendCommand_ack pos b ha, State.afterCommand]
  simp only [hq]
  exact State.enterInit_done hdone

end

/-- A command byte, acknowledged: UPDATE goes on to its next transaction. -/
theorem State.sendCommand_ack_pageCmd {pg : Fin 8} {k : PageCmdKind} (hq : s.seq = .pageCmd pg k)
    (ha : s.answers = .ack :: rest) (pos : Option CtlPos) (b : Byte) :
    s.sendCommand pos b =
      (s.answered .ack rest (cmdPayload b) (s.controller.takeCommand s.panelSaid pos b)).afterPageCmd pg k := by
  rw [State.sendCommand_ack pos b ha, State.afterCommand]
  cases k <;> simp only [hq] <;> rfl

/-- A command byte, acknowledged: an idle block stays idle. -/
theorem State.sendCommand_ack_idle (hq : s.seq = .idle) (ha : s.answers = .ack :: rest) (pos : Option CtlPos) (b : Byte) :
    s.sendCommand pos b = s.answered .ack rest (cmdPayload b) (s.controller.takeCommand s.panelSaid pos b) := by
  rw [State.sendCommand_ack pos b ha]
  simp only [State.afterCommand, hq]
  simp only [State.answered, hq]

/-- Data, acknowledged: UPDATE goes on after its page. -/
theorem State.sendSlice_ack_pageData {pg : Fin 8} (hq : s.seq = .pageData pg) (ha : s.answers = .ack :: rest)
    (d : List Byte) :
    s.sendSlice d =
      State.enterPageAfter pg
        { s.answered .ack rest (dataPayload d) (s.controller.takeData s.panelSaid d) with
          latches := { s.latches with col := 127 } } := by
  rw [State.sendSlice_ack d ha, State.afterData]
  simp only [hq]
  rfl

/-- `BusFault(e)`, raised by the transaction with payload `p`: the controller is then `k` and the flag `c`. -/
def State.faulted (e : FaultInfo) (rest : List BusAnswer) (p : List Byte) (k : Controller) (c : CtrlState) (s : State) :
    State :=
  State.complete (.busFault e) { s.answered (.fault e) rest p k with ctrl := c }

theorem State.sendCommand_fault_eq {e : FaultInfo} (ha : s.answers = .fault e :: rest) (pos : Option CtlPos) (b : Byte) :
    s.sendCommand pos b =
      s.faulted e rest (cmdPayload b) (s.controller.missCommand s.panelSaid pos) (s.dropReady pos).ctrl := by
  rw [State.sendCommand_fault pos b ha]
  unfold State.dropReady
  split <;> rfl

/-- Away from INIT a command byte is not an entry of `INIT_SEQ`, so its fault leaves `ctrl_state` (R124). -/
theorem State.dropReady_ctlPosAt (hq : ∀ is, s.seq ≠ .initStep is) : s.dropReady (ctlPosAt s.seq) = s := by
  cases hs : s.seq with
  | initStep is => exact absurd hs (hq is)
  | pageCmd pg k => cases k <;> rfl
  | idle | settle | clearing _ | pixel | glyph _ _ | nextChar | pageData _ => rfl

/-- INIT's transaction, faulted (R99, R121). -/
theorem State.busStep_initStep_fault {is : Nat} {b : Byte} {e : FaultInfo} (hq : s.seq = .initStep is)
    (hb : s.cfg.initSeq[is]? = some b) (ha : s.answers = .fault e :: rest) :
    ∃ k, s.busStep = s.faulted e rest (cmdPayload b) k .uninitialized :=
  ⟨_, (State.busStep_initStep hq hb).trans (State.sendCommand_fault_eq ha _ b)⟩

/-- UPDATE's transaction, faulted (R104, R121): the one that stands at the bus port. -/
theorem State.busStep_update_fault {p : List Byte} {e : FaultInfo} (hq : ∀ is, s.seq ≠ .initStep is)
    (hp : s.offered = some p) (ha : s.answers = .fault e :: rest) :
    ∃ k, s.busStep = s.faulted e rest p k s.ctrl := by
  cases hs : s.seq with
  | initStep is => exact absurd hs (hq is)
  | pageCmd pg k =>
    obtain rfl : cmdPayload (pageByte s.cfg pg k) = p := by simpa only [State.offered, hs, Option.some.injEq] using hp
    rw [State.busStep_pageCmd hs, State.sendCommand_fault_eq ha]
    cases k <;> exact ⟨_, rfl⟩
  | pageData pg =>
    obtain rfl : dataPayload (s.slice pg) = p := by simpa only [State.offered, hs, Option.some.injEq] using hp
    exact ⟨_, (State.busStep_pageData hs).trans (State.sendSlice_fault _ ha)⟩
  | idle | settle | clearing _ | pixel | glyph _ _ | nextChar => simp only [State.offered, hs, reduceCtorEq] at hp

end

/-! ## BUS_CMD and BUS_DATA (R96, R97) -/

theorem exec_busCmd (b : Byte) (s : State) : exec (.busCmd b) s = .next (s.sendCommand (ctlPosAt s.seq) b) := rfl

theorem exec_busData (d : List Byte) (s : State) : exec (.busData d) s = .next (s.sendSlice d) := rfl

/-- BUS_CMD's byte, faulted: at a position of INIT, and only there, `ctrl_state` is then `Uninitialized`. -/
theorem exec_busCmd_fault {s : State} {e : FaultInfo} {rest : List BusAnswer} (ha : s.answers = .fault e :: rest)
    (b : Byte) :
    ∃ k c, ((∀ is, s.seq ≠ .initStep is) → c = s.ctrl) ∧ (∀ is, s.seq = .initStep is → c = .uninitialized) ∧
      exec (.busCmd b) s = .next (s.faulted e rest (cmdPayload b) k c) := by
  refine ⟨_, (s.dropReady (ctlPosAt s.seq)).ctrl, fun hq => ?_, fun is hq => ?_,
    congrArg Host.Outcome.next (State.sendCommand_fault_eq ha (ctlPosAt s.seq) b)⟩
  · rw [State.dropReady_ctlPosAt hq]
  · rw [hq]; rfl

/-- Settles O25: the position decides where an acknowledged byte leads, and whether a faulted one drops `Ready`. -/
theorem busCmdSendsOneCommandTransaction : Obligations.BusCmdSendsOneCommandTransaction := by
  refine ⟨fun b e rest s ha => exec_busCmd_fault ha b,
    fun b rest s ha => ⟨?_, ?_, ?_, ?_, ?_, ?_⟩⟩ <;> rw [exec_busCmd]
  · exact fun is hq hmore => ⟨_, congrArg _ (State.sendCommand_ack_initStep_more hq ha _ b hmore)⟩
  · exact fun is hq hdone => ⟨_, congrArg _ (State.sendCommand_ack_initStep_done hq ha _ b hdone)⟩
  · exact fun pg hq => ⟨_, congrArg _ (State.sendCommand_ack_pageCmd hq ha _ b)⟩
  · exact fun pg hq => ⟨_, congrArg _ (State.sendCommand_ack_pageCmd hq ha _ b)⟩
  · exact fun pg hq => ⟨_, congrArg _ (State.sendCommand_ack_pageCmd hq ha _ b)⟩
  · exact fun hq => ⟨_, congrArg _ (State.sendCommand_ack_idle hq ha _ b)⟩

/-- Settles O27: the page decides where acknowledged data leads. -/
theorem busDataSendsOneDataTransaction : Obligations.BusDataSendsOneDataTransaction := by
  refine ⟨fun d e rest s ha => ⟨_, congrArg Host.Outcome.next (State.sendSlice_fault d ha)⟩,
    fun d pg rest s ha hq => ⟨fun next hnext => ?_, fun hlast => ?_⟩⟩
  · have hmore : pg.val + 1 < 8 := hnext ▸ next.isLt
    obtain rfl : next = ⟨pg.val + 1, hmore⟩ := Fin.ext hnext
    rw [exec_busData, State.sendSlice_ack_pageData hq ha, State.enterPageAfter_more hmore]
    exact ⟨_, rfl⟩
  · subst hlast
    rw [exec_busData, State.sendSlice_ack_pageData hq ha, State.enterPageAfter_last (by decide)]
    exact ⟨_, rfl⟩

/-! ## The controller's rows at their positions (R101, R104) -/

/-- Settles O26: each of the three rows is the command byte of its position. -/
theorem pageRowsSetThePointersOfTheirPage : Obligations.PageRowsSetThePointersOfTheirPage := by
  refine fun pg rest s ha =>
    ⟨fun hq => ⟨_, ?_, congrArg Host.Outcome.next
      (State.sendCommand_ack_pageCmd hq ha (some (.pageSelect pg)) (pageSelectByte pg))⟩,
    fun hq => ⟨_, ?_, congrArg Host.Outcome.next (State.sendCommand_ack_pageCmd hq ha (some .colLow) 0x00)⟩,
    fun hq => ⟨_, ?_, congrArg Host.Outcome.next (State.sendCommand_ack_pageCmd hq ha (some .colHigh) 0x10)⟩⟩ <;>
    (intro hsaid; rw [hsaid]; rfl)

/-- Settles O28: the rows are `initSeqInstrs`, their bytes R101's, and each row sends its byte at its own index. -/
theorem initRowsSendTheirBytes : Obligations.InitRowsSendTheirBytes := by
  change ∀ row ∈ (initSeqInstrs.zip Config.initSeqDefault).zipIdx, _
  intro row hrow rest s ha hq
  obtain ⟨hi, hb⟩ := List.getElem?_zip_eq_some.1 (List.mem_zipIdx_iff_getElem?.1 hrow)
  rw [exec_initSeqInstrs hi hb]
  exact ⟨s.controller.takeCommand s.panelSaid (some (.initEntry row.2)) row.1.2, rfl,
    fun hmore => congrArg _ (State.sendCommand_ack_initStep_more hq ha _ _ hmore),
    fun hdone => congrArg _ (State.sendCommand_ack_initStep_done hq ha _ _ hdone)⟩

/-! ## A command over its acknowledged transactions -/

theorem acks_append_ack (n : Nat) (as : List BusAnswer) : acks n ++ .ack :: as = acks (n + 1) ++ as := by
  rw [acks, acks, List.replicate_succ', List.append_assoc]; rfl

theorem length_acks_append (n : Nat) (as : List BusAnswer) : (acks n ++ as).length = n + as.length := by
  rw [List.length_append, acks, List.length_replicate]

theorem ackedEvents_snoc (T : List BusEvent) (ps : List (List Byte)) (p : List Byte) :
    T ++ ackedEvents (ps ++ [p]) = T ++ ackedEvents ps ++ [⟨Config.devAddr, p, .ack⟩] := by
  rw [ackedEvents, List.map_append, List.append_assoc]; rfl

/-- A transaction that ends its command is the last of the run, whatever answers are left. -/
theorem runBus_of_last {s u : State} (hstep : s.busStep = u) (hidle : u.seq = .idle) (a : BusAnswer)
    (rest : List BusAnswer) : runBus (a :: rest).length s = u := by
  rw [List.length_cons, runBus, hstep, runBus_idle _ hidle]

/-! ## INIT (R99, R103) -/

theorem initPayloads_take_succ {c : Cfg} {n : Nat} {b : Byte} (hb : c.initSeq[n]? = some b) :
    (initPayloads c).take (n + 1) = (initPayloads c).take n ++ [cmdPayload b] := by
  rw [List.take_add_one, initPayloads, List.getElem?_map, hb]; rfl

/-- INIT, started in `s`, after `n` acknowledged transactions: the answers `as` are to come, and the controller is `k`. -/
def State.initAfter (n : Nat) (as : List BusAnswer) (k : Controller) (s : State) : State :=
  { s with
    answers := as, trace := s.trace ++ ackedEvents ((initPayloads s.cfg).take n), seq := .initStep n
    latches := { s.latches with op := .init }, controller := k }

/-- INIT whose first `n` transactions, not all, are acknowledged: the controller has taken entries 0 to `n − 1`, and
INIT goes on from entry `n`. -/
theorem exec_init_acks {s : State} {n : Nat} (hn : n < s.cfg.initSeq.length) {as : List BusAnswer}
    (ha : s.answers = acks n ++ as) :
    ∃ k : Controller, k.taken = s.cfg.initSeq.take n ∧ k.unsaid ∧
      exec .init s = .next (runBus as.length (s.initAfter n as k)) := by
  have hstart := State.startInit_more (s := s) rfl (Nat.zero_lt_of_lt hn)
  obtain ⟨k, htaken, hunsaid, hrun⟩ := runBus_init_acks n as.length 0 as s.startInit (by rw [hstart])
    (by rw [State.startInit_cfg, Nat.zero_add]; exact hn) (by rw [hstart]; exact ha) (by rw [hstart]; rfl)
    (by rw [hstart]; exact Controller.unsaid_forget _)
  rw [State.startInit_cfg, Nat.zero_add] at htaken
  refine ⟨k, htaken, hunsaid, congrArg Host.Outcome.next ?_⟩
  rw [ha, length_acks_append, hrun, hstart, List.drop_zero, Nat.zero_add]
  rfl

/-- INIT that entry `n` ends in one of the states `P k`: the rest of the run makes no transaction. -/
theorem exec_init_of_last {s : State} {n : Nat} (hn : n < s.cfg.initSeq.length) {a : BusAnswer} {rest : List BusAnswer}
    (ha : s.answers = acks n ++ a :: rest) {P : Controller → State}
    (hlast : ∀ k, ∃ k', (s.initAfter n (a :: rest) k).busStep = P k') (hidle : ∀ k, (P k).seq = .idle) :
    ∃ k, exec .init s = .next (P k) := by
  obtain ⟨k, -, -, hx⟩ := exec_init_acks hn ha
  obtain ⟨k', hstep⟩ := hlast k
  exact ⟨k', by rw [hx, runBus_of_last hstep (hidle k')]⟩

/-- INIT, acknowledged throughout; without an entry it completes as it starts. -/
theorem exec_init_acknowledged {s : State} {rest : List BusAnswer} (ha : s.answers = acks s.cfg.initSeq.length ++ rest) :
    ∃ k : Controller, exec .init s = .next (State.complete .ok
      { s with
        answers := rest, trace := s.trace ++ ackedEvents (initPayloads s.cfg), ctrl := .ready, controller := k }) := by
  cases hlen : s.cfg.initSeq.length with
  | zero =>
    obtain rfl : s.answers = rest := by rw [ha, hlen]; rfl
    have hnone : initPayloads s.cfg = [] := by rw [initPayloads, List.eq_nil_of_length_eq_zero hlen, List.map_nil]
    refine ⟨{ s.controller.forget with taken := [] }, congrArg Host.Outcome.next ?_⟩
    rw [State.startInit_done hlen, runBus_idle _ rfl, hnone, ackedEvents, List.map_nil, List.append_nil]
  | succ n =>
    have hn : n < s.cfg.initSeq.length := by omega
    have hb := List.getElem?_eq_getElem hn
    have hall : initPayloads s.cfg = (initPayloads s.cfg).take n ++ [cmdPayload s.cfg.initSeq[n]] := by
      rw [← initPayloads_take_succ hb, List.take_of_length_le (by rw [initPayloads, List.length_map]; omega)]
    rw [hlen, ← acks_append_ack] at ha
    rw [hall, ackedEvents_snoc]
    refine exec_init_of_last hn ha (fun k => ?_) fun _ => rfl
    rw [State.busStep_initStep_ack (s := s.initAfter n _ k) rfl hb rfl, State.enterInit_done (by exact hlen.le)]
    exact ⟨_, rfl⟩

/-- Settles O31: the acknowledged transactions one after another, and the last one or the faulted one. -/
theorem initSendsItsSequenceInOrder : Obligations.InitSendsItsSequenceInOrder := by
  refine ⟨by decide, fun rest s => ⟨exec_init_acknowledged, fun n e b hb ha => ?_⟩⟩
  have hn : n < s.cfg.initSeq.length := (List.getElem?_eq_some_iff.1 hb).1
  exact exec_init_of_last hn ha (fun k => State.busStep_initStep_fault rfl hb rfl) fun _ => rfl

/-! ## UPDATE (R104) -/

theorem State.updatePayloads_length (s : State) : s.updatePayloads.length = 32 := rfl

theorem updatePos_ne_initStep {n : Nat} (hn : n < 32) (is : Nat) : updatePos n ≠ .initStep is := by
  rcases updatePos_cases hn with ⟨-, k, hq⟩ | ⟨-, hq⟩ <;> rw [hq] <;> nofun

/-- At the position of transaction `n` its payload stands at the bus port. -/
theorem State.offered_updatePos {s : State} {n : Nat} (hq : s.seq = updatePos n) (hn : n < 32) :
    s.offered = some (s.updatePayload n) := by
  have hpg : (Fin.ofNat 8 (n / 4)).val = n / 4 := Nat.mod_eq_of_lt (by omega)
  have hr : n % 4 = 0 ∨ n % 4 = 1 ∨ n % 4 = 2 ∨ n % 4 = 3 := by omega
  rcases hr with hr | hr | hr | hr <;>
    simp only [State.offered, hq, updatePos, State.updatePayload, hr, pageByte, hpg]

/-- UPDATE, started in `s`, after `n` acknowledged transactions: the answers `as` are to come, the working registers are
`l` and the controller is `k`. -/
def State.updateAfter (n : Nat) (as : List BusAnswer) (l : Latches) (k : Controller) (s : State) : State :=
  { s with
    answers := as, trace := s.trace ++ ackedEvents (s.updatePayloads.take n), seq := updatePos n, latches := l
    controller := k }

/-- UPDATE whose first `n` transactions, not all, are acknowledged goes on from transaction `n`. -/
theorem runBus_update_acks {s : State} {n : Nat} (hn : n < 32) (m : Nat) {as : List BusAnswer}
    (ha : s.answers = acks n ++ as) : ∃ l k, runBus (n + m) s.startUpdate = runBus m (s.updateAfter n as l k) := by
  induction n generalizing m as with
  | zero =>
    obtain rfl : s.answers = as := ha
    refine ⟨s.startUpdate.latches, s.controller, ?_⟩
    rw [Nat.zero_add, State.updateAfter, List.take_zero, ackedEvents, List.map_nil, List.append_nil]
    rfl
  | succ n ih =>
    rw [← acks_append_ack] at ha
    obtain ⟨l, k, hrun⟩ := ih (by omega) (m + 1) ha
    obtain ⟨l', k', hstep⟩ := busStep_update_ack s (show n < 31 by omega) as l k
      (s.trace ++ ackedEvents (s.updatePayloads.take n))
    refine ⟨l', k', ?_⟩
    rw [show n + 1 + m = n + (m + 1) by omega, hrun, runBus, State.updateAfter, hstep, State.updateAfter,
      State.updatePayloads_take_succ s (by omega), ackedEvents_snoc]
    rfl

/-- UPDATE that transaction `n` ends in one of the states `P k`: the rest of the run makes no transaction. -/
theorem exec_update_of_nth {s : State} {n : Nat} (hn : n < 32) {a : BusAnswer} {rest : List BusAnswer}
    (ha : s.answers = acks n ++ a :: rest) {P : Controller → State}
    (hlast : ∀ l k, ∃ k', (s.updateAfter n (a :: rest) l k).busStep = P k') (hidle : ∀ k, (P k).seq = .idle) :
    ∃ k, exec .update s = .next (P k) := by
  obtain ⟨l, k, hrun⟩ := runBus_update_acks hn (a :: rest).length ha
  obtain ⟨k', hstep⟩ := hlast l k
  refine ⟨k', congrArg Host.Outcome.next ?_⟩
  rw [ha, length_acks_append, hrun, runBus_of_last hstep (hidle k')]

/-- UPDATE, acknowledged throughout: its last transaction is the data of page 7. -/
theorem exec_update_acknowledged {s : State} {rest : List BusAnswer} (ha : s.answers = acks 32 ++ rest) :
    ∃ k : Controller, exec .update s = .next (State.complete .ok
      { s with answers := rest, trace := s.trace ++ ackedEvents s.updatePayloads, controller := k }) := by
  have hall : s.updatePayloads = s.updatePayloads.take 31 ++ [s.updatePayload 31] :=
    (List.take_of_length_le (State.updatePayloads_length s).le).symm.trans (s.updatePayloads_take_succ (by decide))
  rw [hall, ackedEvents_snoc]
  refine exec_update_of_nth (n := 31) (by decide) (ha.trans (acks_append_ack 31 rest).symm) (fun l k => ?_) fun _ => rfl
  rw [State.busStep_pageData_ack (s := s.updateAfter 31 _ l k) (pg := 7) rfl rfl, State.enterPageAfter_last (by decide)]
  exact ⟨_, rfl⟩

/-- Settles O34: the acknowledged transactions one after another, and the last one or the faulted one. -/
theorem updateSendsEveryPageInOrder : Obligations.UpdateSendsEveryPageInOrder := by
  refine ⟨by decide, fun rest s => ⟨exec_update_acknowledged, fun n e p hp ha => ?_⟩⟩
  have hn : n < 32 := (List.getElem?_eq_some_iff.1 hp).1
  obtain rfl : s.updatePayload n = p := Option.some.inj ((s.updatePayloads_get hn).symm.trans hp)
  exact exec_update_of_nth hn ha
    (fun l k => State.busStep_update_fault (updatePos_ne_initStep hn) (State.offered_updatePos rfl hn) rfl) fun _ => rfl

/-! ## The trace of UPDATE by its indices (R105) -/

/-- The page slice as the bytes of the framebuffer (R32). -/
theorem State.slice_eq_fbByte (s : State) (p : Nat) :
    s.slice p = (List.range 128).map fun k => s.fbByte (128 * p + k) := by
  rw [Nat.mul_comm]; rfl

/-- The events of an acknowledged UPDATE by the number of their transaction. -/
theorem ackedEvents_updatePayloads_get (s : State) {n : Nat} (hn : n < 32) :
    (ackedEvents s.updatePayloads)[n]? = some ⟨Config.devAddr, s.updatePayload n, .ack⟩ := by
  rw [ackedEvents, List.getElem?_map, s.updatePayloads_get hn]; rfl

/-- Settles O35: transaction `4p + k` is the `k`-th of page `p`. -/
theorem updateTraceByIndex : Obligations.UpdateTraceByIndex := by
  intro rest s ha
  obtain ⟨k, hx⟩ := exec_update_acknowledged ha
  refine ⟨_, ackedEvents s.updatePayloads, hx, rfl, rfl, rfl, fun p hp => ?_⟩
  have hdiv : ∀ r < 4, (4 * p + r) / 4 = p := by omega
  rw [← State.slice_eq_fbByte, ackedEvents_updatePayloads_get s (n := 4 * p) (by omega),
    ackedEvents_updatePayloads_get s (by omega), ackedEvents_updatePayloads_get s (by omega),
    ackedEvents_updatePayloads_get s (by omega)]
  simp [State.updatePayload, hdiv, cmdPayload, dataPayload]

/-! ## The frame of the bus side (R99, R104, R124) -/

theorem SameStores.startInit (s : State) : SameStores s s.startInit :=
  SameStores.trans ⟨rfl, rfl, rfl, rfl⟩ (SameStores.enterInit _ 0)

theorem SameStores.startUpdate (s : State) : SameStores s s.startUpdate := ⟨rfl, rfl, rfl, rfl⟩

theorem SameStores.fbByte {s t : State} (h : SameStores s t) (a : Nat) : t.fbByte a = s.fbByte a := by
  obtain ⟨hcfg, hfb, -, -⟩ := h
  rw [State.fbByte, State.fbByte, hcfg, hfb]

theorem BusRow.sameStores {i : Instr} (hi : BusRow i) {s t : State} (hx : exec i s = .next t) : SameStores s t := by
  cases hi with
  | command p b he => rw [he] at hx; cases hx; exact SameStores.sendCommand s _ b
  | data d => cases hx; exact SameStores.sendSlice s d

/-- Settles O40: a transaction leaves the stores, and INIT and UPDATE are runs of transactions. -/
theorem busSideLeavesEveryByteOfTheFramebuffer : Obligations.BusSideLeavesEveryByteOfTheFramebuffer := by
  intro i s t hx hi
  have hstores : SameStores s t := by
    rcases hi with rfl | rfl | ⟨b, rfl⟩ | ⟨d, rfl⟩ | ⟨pg, rfl⟩ | rfl | rfl | hi
    · cases hx; exact (SameStores.startInit s).trans (SameStores.runBus _ _)
    · cases hx; exact (SameStores.startUpdate s).trans (SameStores.runBus _ _)
    · exact BusRow.sameStores (.command ctlPosAt b fun _ => rfl) hx
    · exact BusRow.sameStores (.data d) hx
    · exact (busRow_ctl (.pageSelect pg) fun _ => rfl).sameStores hx
    · exact (busRow_ctl .colLow fun _ => rfl).sameStores hx
    · exact (busRow_ctl .colHigh fun _ => rfl).sameStores hx
    · exact (busRow_initSeq hi).sameStores hx
  exact ⟨hstores.fbByte, hstores.2.1, hstores.1, hstores.2.2⟩

end Sys2Proof.Machine
end

section
/-! # Proofs for `60_exceptions.md`

What a faulted transaction does at each bus position, and what the environment's controller has then taken of INIT. -/

namespace Sys2Proof.Machine

/-! ## `BusFault(e)` at a bus position (R121, R99) -/

section
variable {s : State} {e : FaultInfo} {rest : List BusAnswer}

/-- UPDATE's transaction, faulted: the step raises `BusFault(e)` and leaves `ctrl_state`. -/
theorem step_update_fault {p : List Byte} (hbus : s.seq.isBus) (hq : ∀ is, s.seq ≠ .initStep is)
    (hp : s.offered = some p) (ha : s.answers = .fault e :: rest) :
    ∃ k, step s = .next (s.faulted e rest p k s.ctrl) := by
  obtain ⟨k, hstep⟩ := State.busStep_update_fault hq hp ha
  exact ⟨k, by rw [step_bus hbus fun is h => absurd h (hq is), hstep]⟩

/-- INIT's transaction, faulted: the step raises `BusFault(e)` and leaves `Uninitialized`. -/
theorem step_initStep_fault {is : Nat} {b : Byte} (hq : s.seq = .initStep is) (hb : s.cfg.initSeq[is]? = some b)
    (ha : s.answers = .fault e :: rest) :
    ∃ k, step s = .next (s.faulted e rest (cmdPayload b) k .uninitialized) := by
  have hlt : is < s.cfg.initSeq.length := (List.getElem?_eq_some_iff.1 hb).1
  obtain ⟨k, hstep⟩ := State.busStep_initStep_fault hq hb ha
  exact ⟨k, by rw [step_bus (by rw [hq]; trivial) fun _ h => by cases hq.symm.trans h; exact hlt, hstep]⟩

end

/-- Settles O29: the step of a bus position is its transaction, and the transaction raises `BusFault(e)`. -/
theorem faultedTransactionRaisesBusFault : Obligations.FaultedTransactionRaisesBusFault := by
  refine fun e rest s ha => ⟨fun is b hq hb => step_initStep_fault hq hb ha, fun pg c hq => ?_, fun pg hq => ?_⟩
  · exact step_update_fault (by rw [hq]; trivial) (by simp [hq]) (by simp only [State.offered, hq]; rfl) ha
  · exact step_update_fault (by rw [hq]; trivial) (by simp [hq]) (by simp only [State.offered, hq]; rfl) ha

/-! ## What the controller has taken of INIT (R124) -/

section
variable {s : State} {rest : List BusAnswer} {is : Nat} {b : Byte} (hq : s.seq = .initStep is)
  (hb : s.cfg.initSeq[is]? = some b)
include hq hb

/-- The controller has taken an acknowledged entry. -/
theorem State.busStep_initStep_ack_controller (ha : s.answers = .ack :: rest) :
    s.busStep.controller = { s.controller.forget with taken := s.controller.taken ++ [b] } := by
  rw [State.busStep_initStep_ack hq hb ha, State.enterInit_controller, State.answered_controller]

/-- The controller has not taken a faulted entry. -/
theorem State.busStep_initStep_fault_controller {e : FaultInfo} (ha : s.answers = .fault e :: rest) :
    s.busStep.controller = s.controller.forget := by
  rw [State.busStep_initStep hq hb, State.sendCommand_fault_eq ha]
  exact Controller.missCommand_initEntry s.panelSaid is s.controller

end

/-- INIT whose transaction `n` is its last, answered by `a` after `n` acknowledged ones: it ends in what that transaction
makes of a block whose controller has taken entries 0 to `n − 1`. -/
theorem exec_init_ends_with {s : State} {n : Nat} (hn : n < s.cfg.initSeq.length) {a : BusAnswer} {rest : List BusAnswer}
    (ha : s.answers = acks n ++ a :: rest) (hidle : ∀ k, (s.initAfter n (a :: rest) k).busStep.seq = .idle) :
    ∃ k : Controller, k.taken = s.cfg.initSeq.take n ∧
      exec .init s = .next (s.initAfter n (a :: rest) k).busStep := by
  obtain ⟨k, htaken, -, hx⟩ := exec_init_acks hn ha
  exact ⟨k, htaken, by rw [hx, runBus_of_last rfl (hidle k)]⟩

/-- Faulted at entry `n`: entries 0 to `n − 1` are taken. -/
theorem exec_init_fault_controller {s : State} {n : Nat} {e : FaultInfo} {rest : List BusAnswer}
    (hn : n < s.cfg.initSeq.length) (ha : s.answers = acks n ++ .fault e :: rest) :
    ∃ t : State, exec .init s = .next t ∧ t.controller.taken = s.cfg.initSeq.take n ∧ t.controller.unsaid := by
  have hb := List.getElem?_eq_getElem hn
  obtain ⟨k, htaken, hx⟩ := exec_init_ends_with hn ha fun k => by
    obtain ⟨k', hstep⟩ := State.busStep_initStep_fault (s := s.initAfter n _ k) rfl hb rfl
    rw [hstep]; rfl
  refine ⟨_, hx, ?_⟩
  rw [State.busStep_initStep_fault_controller (s := s.initAfter n _ k) rfl hb rfl]
  exact ⟨htaken, Controller.unsaid_forget k⟩

/-- Acknowledged throughout: every entry is taken; without an entry a new, empty record begins. -/
theorem exec_init_ack_controller {s : State} {rest : List BusAnswer} (ha : s.answers = acks s.cfg.initSeq.length ++ rest) :
    ∃ t : State, exec .init s = .next t ∧ t.controller.taken = s.cfg.initSeq ∧ t.controller.unsaid := by
  cases hlen : s.cfg.initSeq.length with
  | zero =>
    have hx : exec .init s = .next s.startInit :=
      congrArg Host.Outcome.next (runBus_idle _ (by rw [State.startInit_done hlen]; rfl))
    refine ⟨s.startInit, hx, ?_⟩
    rw [State.startInit_done hlen]
    exact ⟨(List.eq_nil_of_length_eq_zero hlen).symm, Controller.unsaid_forget s.controller⟩
  | succ n =>
    have hn : n < s.cfg.initSeq.length := by omega
    have hb := List.getElem?_eq_getElem hn
    rw [hlen, ← acks_append_ack] at ha
    obtain ⟨k, htaken, hx⟩ := exec_init_ends_with hn ha fun k => by
      rw [State.busStep_initStep_ack (s := s.initAfter n _ k) rfl hb rfl, State.enterInit_done (by exact hlen.le)]; rfl
    refine ⟨_, hx, ?_⟩
    rw [State.busStep_initStep_ack_controller (s := s.initAfter n _ k) rfl hb rfl]
    refine ⟨?_, Controller.unsaid_forget k⟩
    show k.taken ++ [s.cfg.initSeq[n]] = s.cfg.initSeq
    rw [htaken, List.take_append_getElem hn, List.take_of_length_le hlen.le]

/-- Settles O32: the entries before the last transaction are taken, and that one if it is acknowledged. -/
theorem controllerTakesTheAcknowledgedEntries : Obligations.ControllerTakesTheAcknowledgedEntries :=
  fun _ _ => ⟨exec_init_ack_controller, fun _ _ => exec_init_fault_controller⟩

end Sys2Proof.Machine
end

section
/-! # Proofs for `70_reset_and_hazards.md`

A transaction that is never answered, and the state after reset. -/

namespace Sys2Proof.Machine

/-! ## A transaction that is not answered (R95, R150) -/

/-- Inside INIT or UPDATE, with no answer at the bus port, the step leaves the state as it is. -/
theorem step_unanswered {s : State} (h : s.inBusCommand) (hne : s.seq ≠ .idle) (ha : s.answers = []) :
    step s = .next s := by
  obtain ⟨hstep, -⟩ := h.step hne
  rw [hstep, State.busStep_waiting ha]

/-- A state that its step leaves as it is stays for any number of steps. -/
theorem core_run_of_step_self {s : State} (h : step s = .next s) (n : Nat) : core.run n s = .next s := by
  induction n with
  | zero => exact core_run_zero s
  | succ n ih => rw [core_run_succ h, ih]

/-- Settles O30: the positions of INIT and UPDATE are those of R14's bus transactions, and each step there waits. -/
theorem unansweredTransactionStallsTheBlock : Obligations.UnansweredTransactionStallsTheBlock := by
  intro s n ha hpos
  have hbus : s.inBusCommand ∧ s.seq ≠ .idle := by
    rcases hpos with ⟨is, hq, his⟩ | ⟨pg, k, hq⟩ | ⟨pg, hq⟩
    · simpa [State.inBusCommand, hq] using his
    · simp [State.inBusCommand, hq]
    · simp [State.inBusCommand, hq]
  obtain ⟨hin, hne⟩ := hbus
  exact core_run_of_step_self (step_unanswered hin hne ha) n

/-- Settles O33: INIT goes on from entry `n`, and no answer is left for that transaction. -/
theorem initStandsWhereItIsNotAnswered : Obligations.InitStandsWhereItIsNotAnswered :=
  fun n _ hn ha => exec_init_acks hn (ha.trans (List.append_nil (acks n)).symm)

/-! ## Reset (R140) -/

theorem resetByte_eq_getElem (c : Cfg) {a : Nat} (h : a < 1024) : resetByte c a = c.fbReset[a] := by
  rw [resetByte, List.getD_eq_getElem _ _ (by rwa [Vector.length_toList]), Vector.getElem_toList]

/-- Settles O1: no cell of `FB` is listed after reset, so each address reads as `FB_RESET`. -/
theorem resetLeavesTheUnspecifiedFramebuffer : Obligations.ResetLeavesTheUnspecifiedFramebuffer :=
  ⟨rfl, fun c => ⟨fun _ h => resetByte_eq_getElem c h, rfl, rfl, rfl, rfl, rfl⟩⟩

/-- After reset the block is idle with nothing recorded, and the controller's registers hold the first free value. -/
theorem State.legal_resetWith {c : Cfg} (h : c.wf) : (State.resetWith c).Legal where
  cfg := h
  fb := Memory.wf_nil c
  position := State.positionLegal_of_idle rfl
  unsaid := fun _ => ⟨0, rfl⟩
  trace := fun _ he => nomatch he
  answers := fun _ he => nomatch he
  completions := fun _ he => nomatch he

/-- Settles O48: the default configuration is well-formed, as O36 says. -/
theorem resetStateIsLegal : Obligations.ResetStateIsLegal := by
  obtain ⟨-, hdefault, -⟩ := pageSelectByteNeverCarries
  exact ⟨State.legal_resetWith hdefault, fun _ => State.legal_resetWith⟩

end Sys2Proof.Machine
end
